-- ==== Sys2Proof/Word.lean ====
section
/-! DEFINITION. The widths of 00_scope.md R5 and R9: bytes, 16-bit concentrations, 32-bit host words. -/

namespace Sys2Proof

/-- One byte of a stream, of the response buffer, or a raw status byte (R5). -/
abbrev Byte := BitVec 8

/-- A 16-bit field: a mass concentration, the timeout, the stall counter (R5). -/
abbrev Half := BitVec 16

/-- A host word, `HOST_DW` = 32 bits (R5). -/
abbrev Word := BitVec 32

end Sys2Proof
end

