-- ==== Sys2Proof/Config.lean ====
section
/-! DEFINITION. The parameters of 00_scope.md R5, the input ports of R8, and the free inputs of 20_memory.md R68. -/

namespace Sys2Proof

/-- The values of one clock cycle's inputs: the input ports of 00_scope.md R8, less `rx_avail` and
`rx_data`, which are functions of the transport's queue (20_memory.md R68), and the bytes the sensor
appends to that queue before the cycle (R68; log 17). -/
structure Inputs where
  /-- synchronous reset, active high (70_reset_and_hazards.md R270) -/
  rst : Bool
  /-- a host access occurs this cycle -/
  hsel : Bool
  /-- 1 = write, 0 = read -/
  hwrite : Bool
  /-- word address -/
  haddr : BitVec 6
  /-- write data -/
  hwdata : Word
  /-- the transport accepts the offered byte -/
  txReady : Bool
  /-- the transport reports a write failure -/
  txErr : Bool
  /-- the bytes the sensor appends to the queue before this cycle, first byte first -/
  arrivals : List Byte
  deriving DecidableEq, Repr, Inhabited

/-- The inputs of a cycle in which nobody acts. -/
def Inputs.quiet : Inputs :=
  { rst := false, hsel := false, hwrite := false, haddr := 0#6, hwdata := 0#32, txReady := false,
    txErr := false, arrivals := [] }

namespace Config

/-- The one parameter R5 leaves OPEN: `HAS_CSUM`, whether the reply checksum validator is present. It is
a field of State that no step changes, so a statement about every state covers both variants (log 3). -/
structure Variant where
  hasCsum : Bool
  deriving DecidableEq, Repr

/-- `BUF_CAP` (R5): the response buffer's capacity in bytes. -/
abbrev bufCap : Nat := 20

/-- `NUM_CMDS` (R5): the number of wire commands. -/
abbrev numCmds : Nat := 6

/-- `PARAMS.ID` (10_state.md R28). -/
abbrev paramsId : Half := 0x2005#16

/-- FREE VALUE (log 2): the inputs of a cycle for which State holds none. Host, transport and sensor are
free (00_scope.md R7, 20_memory.md R68), so nothing is known of them. -/
opaque freeInputs : Nat → Inputs

end Config

end Sys2Proof
end

