-- ==== Sys2Proof/Syntax.lean ====
section
/-! DEFINITION. The abstract syntax: wire commands, host operations, the instruction type, host registers and host program lines. -/

namespace Sys2Proof

/-- The six wire commands, in the order of their ids 0 to 5 (30_encoding.md R92). -/
inductive WireCmd where
  | close | readSerial | openCmd | setCont | readConc | readPc
  deriving DecidableEq, Repr

/-- The operation in progress, `seq_op` (10_state.md R29): 0 NONE, 1 INIT, 2 MEASURE. -/
inductive Op where
  | none | init | measure
  deriving DecidableEq, Repr

/-- The rows of spec/opcode_table.json. A host operation is a word written to `CMD`; `x` is
`hwdata[31:8]`, the bits the table writes x and R98 ignores, kept so that the encoding is exact (log 11).
A wire exchange has no operand (40_wire_exchanges.md R127 to R132). -/
inductive Instr where
  /-- `NOP`, 41_host_operations.md R161 -/
  | nop (x : BitVec 24)
  /-- `INIT`, 41_host_operations.md R162 -/
  | init (x : BitVec 24)
  /-- `MEASURE`, 41_host_operations.md R163 -/
  | measure (x : BitVec 24)
  /-- `ABORT`, 41_host_operations.md R164 -/
  | abort (x : BitVec 24)
  /-- `CLOSE`, 40_wire_exchanges.md R127 -/
  | close
  /-- `READ_SERIAL`, 40_wire_exchanges.md R128 -/
  | readSerial
  /-- `OPEN`, 40_wire_exchanges.md R129 -/
  | openCmd
  /-- `SET_CONT`, 40_wire_exchanges.md R130 -/
  | setCont
  /-- `READ_CONC`, 40_wire_exchanges.md R131 -/
  | readConc
  /-- `READ_PC`, 40_wire_exchanges.md R132 -/
  | readPc
  deriving DecidableEq, Repr

/-- The wire exchange of a wire command. -/
def Instr.ofCmd : WireCmd → Instr
  | .close => .close
  | .readSerial => .readSerial
  | .openCmd => .openCmd
  | .setCont => .setCont
  | .readConc => .readConc
  | .readPc => .readPc

/-- The wire command of an instruction that is a wire exchange. -/
def Instr.cmd? : Instr → Option WireCmd
  | .nop _ | .init _ | .measure _ | .abort _ => Option.none
  | .close => some .close
  | .readSerial => some .readSerial
  | .openCmd => some .openCmd
  | .setCont => some .setCont
  | .readConc => some .readConc
  | .readPc => some .readPc

/-- An encoded instruction in one of the opcode table's two spaces: a word written to `CMD`, or the
bytes of a request frame, first byte on the wire first. -/
inductive Code where
  | cmdWord (w : Word)
  | frameBytes (bs : List Byte)
  deriving DecidableEq, Repr

/-- The named host registers (20_memory.md R61). -/
inductive HostReg where
  | cmd | config | status | interp | count05 | count25 | count10 | pm25 | pm10
  | alarm | calib | workstatus | params
  deriving DecidableEq, Repr

/-- One line of a host program (30_encoding.md R102). -/
inductive HostLine where
  /-- `WR <reg>, <value>` -/
  | wr (r : HostReg) (v : Word)
  /-- `RD <reg>` -/
  | rd (r : HostReg)
  | nop
  | init
  | measure
  | abort
  /-- repeat `RD STATUS` until bit 0 reads 0 -/
  | wait
  /-- environment line: the transport appends the bytes to its queue -/
  | sensor (bs : List Byte)
  deriving DecidableEq, Repr

end Sys2Proof
end

