-- ==== Sys2Proof/WellFormed.lean ====
section
/-! DEFINITION. Well-formedness: the shape of a request frame (30_encoding.md R90, R91) and of an encoded instruction. -/

namespace Sys2Proof

namespace Frame

/-- R90: byte 0 is the lead byte 0x11. -/
def leadOk (bs : List Byte) : Bool :=
  bs.head? == some 0x11#8

/-- R90, R94: byte 1 is `L`, and the frame has `L + 3` bytes. -/
def lengthOk (bs : List Byte) : Bool :=
  match bs with
  | _ :: l :: _ => bs.length == l.toNat + 3
  | _ => false

/-- The 8-bit sum of a byte list (R9, `+_8`). -/
def sum8 (bs : List Byte) : Byte :=
  bs.foldl (· + ·) 0#8

/-- R91: the 8-bit sum of the whole frame, checksum byte included, is 0. -/
def sumOk (bs : List Byte) : Bool :=
  sum8 bs == 0#8

/-- R90 and R91 together. -/
def wellFormed (bs : List Byte) : Bool :=
  leadOk bs && lengthOk bs && sumOk bs

end Frame

/-- A code of the host space is well formed if its low byte is one of the four codes of 30_encoding.md
R98; a code of the wire space if it has the shape of R90 and R91. -/
def Code.wellFormed : Code → Bool
  | .cmdWord w =>
    let op := w.extractLsb' 0 8
    op == 0x00#8 || op == 0x01#8 || op == 0x02#8 || op == 0x0F#8
  | .frameBytes bs => Frame.wellFormed bs

/-- Every instruction is well formed: the only operand is the ignored field `x`, legal at every value
(R98), and the wire exchanges have none (40_wire_exchanges.md R127 to R132). -/
def Instr.wellFormed : Instr → Bool
  | .nop _ | .init _ | .measure _ | .abort _ => true
  | .close | .readSerial | .openCmd | .setCont | .readConc | .readPc => true

end Sys2Proof
end

