-- ==== Sys2Proof/Decode.lean ====
section
/-! DEFINITION. The constant tables of 30_encoding.md R92 and R100, the decoder, the encoder, and the register map of 20_memory.md R61. -/

namespace Sys2Proof

/-! ### Constant tables (10_state.md R36) -/

/-- `FRAME[c]`: the request frame of a wire command, first byte first (30_encoding.md R92). -/
def frame : WireCmd → List Byte
  | .close => [0x11#8, 0x03#8, 0x0C#8, 0x01#8, 0x1E#8, 0xC1#8]
  | .readSerial => [0x11#8, 0x01#8, 0x1F#8, 0xCF#8]
  | .openCmd => [0x11#8, 0x03#8, 0x0C#8, 0x02#8, 0x1E#8, 0xC0#8]
  | .setCont => [0x11#8, 0x03#8, 0x0D#8, 0xFF#8, 0xFB#8, 0xE5#8]
  | .readConc => [0x11#8, 0x02#8, 0x0B#8, 0x01#8, 0xE1#8]
  | .readPc => [0x11#8, 0x01#8, 0x0B#8, 0xE3#8]

/-- `FLEN[c]`: the frame's length in bytes (R92). -/
def flen : WireCmd → Nat
  | .close => 6
  | .readSerial => 4
  | .openCmd => 6
  | .setCont => 6
  | .readConc => 5
  | .readPc => 4

/-- `RLEN[c]`: the reply's length in bytes (R92). -/
def rlen : WireCmd → Nat
  | .close => 5
  | .readSerial => 14
  | .openCmd => 5
  | .setCont => 6
  | .readConc => 20
  | .readPc => 20

/-- The id of a wire command (R92), as `STATUS.ERR_CMD` shows it. -/
def cmdId : WireCmd → BitVec 3
  | .close => 0#3
  | .readSerial => 1#3
  | .openCmd => 2#3
  | .setCont => 3#3
  | .readConc => 4#3
  | .readPc => 5#3

/-- `PROG[op]`: the wire commands an operation runs, in order (R100). -/
def prog : Op → List WireCmd
  | .none => []
  | .init => [.close, .readSerial, .setCont, .openCmd]
  | .measure => [.readPc, .readConc]

/-- The place of a wire command in the programs of R100; each command stands in exactly one place. -/
def progPlace : WireCmd → Op × BitVec 2
  | .close => (.init, 0#2)
  | .readSerial => (.init, 1#2)
  | .setCont => (.init, 2#2)
  | .openCmd => (.init, 3#2)
  | .readPc => (.measure, 0#2)
  | .readConc => (.measure, 1#2)

/-! ### Decoder -/

/-- Why a code is not an instruction. -/
inductive DecodeError where
  /-- a `CMD` word whose low byte is none of the four codes (30_encoding.md R99) -/
  | illegalOp
  /-- a byte list that does not start with 0x11 (R90) -/
  | badLead
  /-- a byte list whose length is not that of byte 1 plus 3 (R90) -/
  | badLength
  /-- a byte list whose 8-bit sum is not 0 (R91) -/
  | badSum
  /-- a byte list of the shape of R90 and R91 that is no row of R92 -/
  | unknownFrame
  deriving DecidableEq, Repr

/-- What the decoder answers: an instruction, or a rejection by name. -/
inductive Decoded where
  | instr (i : Instr)
  | rejected (e : DecodeError)
  deriving DecidableEq, Repr

/-- The operation code `hwdata[7:0]` (R98). -/
def opcodeOf (w : Word) : Byte :=
  w.extractLsb' 0 8

/-- The ignored bits `hwdata[31:8]` (R98). -/
def ignoredOf (w : Word) : BitVec 24 :=
  w.extractLsb' 8 24

/-- The host operation a word written to `CMD` selects (R98, R99). -/
def decodeHostOp (w : Word) : Decoded :=
  if opcodeOf w = 0x00#8 then .instr (.nop (ignoredOf w))
  else if opcodeOf w = 0x01#8 then .instr (.init (ignoredOf w))
  else if opcodeOf w = 0x02#8 then .instr (.measure (ignoredOf w))
  else if opcodeOf w = 0x0F#8 then .instr (.abort (ignoredOf w))
  else .rejected .illegalOp

/-- The wire exchange whose constant frame a byte list is, as an observer of the TX stream reads it
(R94). The engine itself parses no frame (R90): this is the decoder of the table's wire rows (log 18). -/
def decodeFrame (bs : List Byte) : Decoded :=
  if !Frame.leadOk bs then .rejected .badLead
  else if !Frame.lengthOk bs then .rejected .badLength
  else if !Frame.sumOk bs then .rejected .badSum
  else if bs = frame .close then .instr .close
  else if bs = frame .readSerial then .instr .readSerial
  else if bs = frame .openCmd then .instr .openCmd
  else if bs = frame .setCont then .instr .setCont
  else if bs = frame .readConc then .instr .readConc
  else if bs = frame .readPc then .instr .readPc
  else .rejected .unknownFrame

/-- The decoder of both spaces of the opcode table. -/
def decode : Code → Decoded
  | .cmdWord w => decodeHostOp w
  | .frameBytes bs => decodeFrame bs

/-! ### Encoder -/

/-- A `CMD` word: the ignored bits above the operation code (R98). -/
def cmdWordOf (x : BitVec 24) (op : Byte) : Word :=
  x ++ op

/-- The code of an instruction (R92, R98). -/
def encode : Instr → Code
  | .nop x => .cmdWord (cmdWordOf x 0x00#8)
  | .init x => .cmdWord (cmdWordOf x 0x01#8)
  | .measure x => .cmdWord (cmdWordOf x 0x02#8)
  | .abort x => .cmdWord (cmdWordOf x 0x0F#8)
  | .close => .frameBytes (frame .close)
  | .readSerial => .frameBytes (frame .readSerial)
  | .openCmd => .frameBytes (frame .openCmd)
  | .setCont => .frameBytes (frame .setCont)
  | .readConc => .frameBytes (frame .readConc)
  | .readPc => .frameBytes (frame .readPc)

/-! ### The opcode table's numbering of words -/

/-- The `n` bytes of a number, most significant byte first: the table numbers a frame with its first
byte most significant (log 9). -/
def bytesOf (n w : Nat) : List Byte :=
  (List.range n).map fun k => BitVec.ofNat 8 (w >>> (8 * (n - 1 - k)))

/-- The code a table word of `nbits` bits stands for. A word of more than 32 bits is a frame; one of 32
bits is a `CMD` word when its low byte is a legal operation code and a frame otherwise (no frame's last
byte is a legal code); a shorter one is a `CMD` word whose upper bits are 0 (log 9). -/
def tableCode (nbits w : Nat) : Code :=
  if 32 < nbits then .frameBytes (bytesOf (nbits / 8) w)
  else if nbits = 32 ∧ decodeHostOp (BitVec.ofNat 32 w) = .rejected .illegalOp then
    .frameBytes (bytesOf 4 w)
  else .cmdWord (BitVec.ofNat 32 w)

/-- The instruction the decoder reads from a table word. -/
def decodeTableWord (nbits w : Nat) : Option Instr :=
  match decode (tableCode nbits w) with
  | .instr i => some i
  | .rejected _ => none

/-! ### Host register map -/

/-- The word address `haddr` of a register (20_memory.md R61); its byte address is 4 times this. -/
def regAddr : HostReg → BitVec 6
  | .cmd => 0#6
  | .config => 1#6
  | .status => 2#6
  | .interp => 3#6
  | .count05 => 4#6
  | .count25 => 5#6
  | .count10 => 6#6
  | .pm25 => 7#6
  | .pm10 => 8#6
  | .alarm => 9#6
  | .calib => 10#6
  | .workstatus => 11#6
  | .params => 12#6

/-- The register at a word address; none at 13 to 63, which are unmapped (R61, R63). -/
def regAt (a : BitVec 6) : Option HostReg :=
  match a.toNat with
  | 0 => some .cmd
  | 1 => some .config
  | 2 => some .status
  | 3 => some .interp
  | 4 => some .count05
  | 5 => some .count25
  | 6 => some .count10
  | 7 => some .pm25
  | 8 => some .pm10
  | 9 => some .alarm
  | 10 => some .calib
  | 11 => some .workstatus
  | 12 => some .params
  | _ => none

end Sys2Proof
end

