-- ==== Sys2Proof/Machine/State.lean ====
section
/-! DEFINITION. The machine's state (10_state.md R20), its ports and environment (00_scope.md R8, 20_memory.md R68), the state after reset (R38), and the reasons a step can stop. -/

namespace Sys2Proof.Machine

/-- `seq_phase` (10_state.md R30): 0 IDLE, 1 TX, 2 RX, 3 FIN. -/
inductive Phase where
  | idle | tx | rx | fin
  deriving DecidableEq, Repr

/-- `STATUS.ERR_CODE` (10_state.md R23, 60_exceptions.md R230): 0 none, 1 TransportTimeout,
2 TransportError, 3 Aborted. Values 4 to 15 are excluded by type (93_implementation_defined.md U16; log 15). -/
inductive ErrCode where
  | none | transportTimeout | transportError | aborted
  deriving DecidableEq, Repr

/-- `STATUS.REJ_CAUSE` (10_state.md R23, 60_exceptions.md R235): 0 none, 1 busy, 2 illegal opcode. -/
inductive RejCause where
  | none | busy | illegal
  deriving DecidableEq, Repr

/-- `INTERP.WS_CLASS` (42_decode_and_status.md R196): 0 unknown, 1 stopped, 2 measuring, 3 done. -/
inductive WsClass where
  | unknown | stopped | measuring | done
  deriving DecidableEq, Repr

/-- The alarm bits 0 to 7 of `ALARM`, in bit order (42_decode_and_status.md R194). -/
inductive Alarm where
  | rpmHigh | rpmLow | tempHigh | tempLow | sensHigh | sensLow | ildHigh | ildLow
  deriving DecidableEq, Repr

/-- The named bits 0 to 2 of `CALIB`, in bit order (42_decode_and_status.md R195). -/
inductive CalibFlag where
  | uncalNormalT | uncalLowT | uncalHighT
  deriving DecidableEq, Repr

/-- `CONFIG` (10_state.md R22). -/
structure ConfigReg where
  irqEn : Bool
  csumEn : Bool
  timeout : Half
  deriving DecidableEq, Repr

/-- The stored fields of `STATUS` (10_state.md R23); `BUSY` and `CUR_OP` have no storage (R37). -/
structure StatusReg where
  done : Bool
  err : Bool
  valid : Bool
  initDone : Bool
  reject : Bool
  csumErr : Bool
  rejCause : RejCause
  errCode : ErrCode
  errCmd : BitVec 3
  errPhase : Phase
  errCount : BitVec 5
  deriving DecidableEq, Repr

/-- The snapshot registers (10_state.md R24 to R26). -/
structure Snapshot where
  count05 : Word
  count25 : Word
  count10 : Word
  pm25 : Half
  pm10 : Half
  alarm : Byte
  calib : Byte
  workstatus : Byte
  deriving DecidableEq, Repr

/-- The sequencer (10_state.md R29 to R33). -/
structure Sequencer where
  op : Op
  step : BitVec 2
  phase : Phase
  txIdx : BitVec 3
  rxCnt : BitVec 5
  stallCnt : Half
  deriving DecidableEq, Repr

/-- The staging registers `stg_c05`, `stg_c25`, `stg_c10` (10_state.md R35). -/
structure Staging where
  c05 : Word
  c25 : Word
  c10 : Word
  deriving DecidableEq, Repr

/-- The response buffer `buf[0..19]` (10_state.md R34), `BUF_CAP` = 20 bytes (00_scope.md R5). -/
abbrev Buffer := Vector Byte 20

/-- The transport (20_memory.md R60, R66 to R68): the queue of received bytes, oldest first, and the TX
stream, the bytes it has accepted, first byte first (log 12). -/
structure Transport where
  rxq : List Byte
  sent : List Byte
  deriving DecidableEq, Repr

/-- The output ports during a step (00_scope.md R8, 10_state.md R40; log 16). `hrdata` is none in a cycle that
reads nothing, where the port carries no valid data (log 7). -/
structure Outputs where
  txValid : Bool
  txData : Byte
  rxPop : Bool
  irq : Bool
  hrdata : Option Word
  deriving DecidableEq, Repr

/-- The whole machine: the engine (10_state.md R20), its variant (00_scope.md R5), the transport, the
ports, and the environment's inputs of the steps to come. -/
structure State where
  /-- the open parameter of R5; no step changes it (log 3) -/
  hw : Config.Variant
  /-- `CONFIG` -/
  cfg : ConfigReg
  /-- `STATUS` -/
  status : StatusReg
  /-- the snapshot registers -/
  snap : Snapshot
  /-- the sequencer -/
  seq : Sequencer
  /-- the response buffer -/
  buf : Buffer
  /-- the staging registers -/
  stg : Staging
  /-- the transport's two byte streams -/
  link : Transport
  /-- the inputs sampled by the step in progress, or by the last one -/
  pins : Inputs
  /-- the inputs of the coming steps, next first (log 2) -/
  sched : List Inputs
  /-- how many inputs have been drawn from `Config.freeInputs` (log 2) -/
  draws : Nat
  /-- the outputs of the last step -/
  out : Outputs
  deriving DecidableEq, Repr

/-- Why the machine stops. -/
inductive Fault where
  /-- The sequencer is at a position that no rule produces (93_implementation_defined.md U16: "a model may
  ... treat them as `fault` (a model invariant violation)"): an operation in progress without a current
  wire command, or a byte index past the frame or the reply. Raised by `execAbort`, the TX and RX
  steps and `enginePart`. SAFE: no state that `EngineInv` admits raises it (log 8). -/
  | badSequencer
  deriving DecidableEq, Repr

/-- Why an instruction has no meaning. -/
inductive Refusal where
  /-- The instruction with this mnemonic has no meaning yet. Raised by an arm of `exec` only. SAFE. -/
  | notModelled (mnemonic : String)
  deriving DecidableEq, Repr

/-- `seq_op` = NONE, `seq_step` = 0, `seq_phase` = IDLE, all counters 0: the sequencer at reset (R38), after an
operation (41_host_operations.md R169) and after an error (60_exceptions.md R234). -/
def Sequencer.idle : Sequencer :=
  { op := .none, step := 0#2, phase := .idle, txIdx := 0#3, rxCnt := 0#5, stallCnt := 0#16 }

/-- The outputs of a step in which nothing happens (10_state.md R38, R40). -/
def Outputs.quiet : Outputs :=
  { txValid := false, txData := 0x00#8, rxPop := false, irq := false, hrdata := none }

/-- `STATUS` after reset (R38). -/
def StatusReg.reset : StatusReg :=
  { done := false, err := false, valid := false, initDone := false, reject := false, csumErr := false,
    rejCause := .none, errCode := .none, errCmd := 0#3, errPhase := .idle, errCount := 0#5 }

/-- The snapshot after reset (R38). -/
def Snapshot.reset : Snapshot :=
  { count05 := 0#32, count25 := 0#32, count10 := 0#32, pm25 := 0#16, pm10 := 0#16, alarm := 0#8,
    calib := 0#8, workstatus := 0#8 }

/-- The machine right after reset (10_state.md R38). DESIGN CHOICE: `HAS_CSUM` is at its default 1 (R5; log 3),
`buf` and the staging registers, whose reset value R34 and R35 leave unspecified, are 0 (logs 4, 5), and
the environment has nothing queued, nothing sent and no input (log 6). -/
def State.reset : State :=
  { hw := { hasCsum := true }
    cfg := { irqEn := false, csumEn := false, timeout := 0#16 }
    status := .reset
    snap := .reset
    seq := .idle
    buf := Vector.replicate 20 0#8
    stg := { c05 := 0#32, c25 := 0#32, c10 := 0#32 }
    link := { rxq := [], sent := [] }
    pins := .quiet
    sched := []
    draws := 0
    out := .quiet }

end Sys2Proof.Machine
end

