-- ==== Sys2Proof/Machine/Operands.lean ====
section
/-! DEFINITION. Operands: the current wire command, field extraction from the response buffer, and the numeric codes of the enumerations. -/

namespace Sys2Proof.Machine

/-- `cur_cmd() = PROG[seq_op][seq_step]`, defined only while an operation is in progress (10_state.md R29). -/
def curCmd (q : Sequencer) : Option WireCmd :=
  (prog q.op)[q.step.toNat]?

/-- `be32(o)` (42_decode_and_status.md R190): big-endian 32 bits from offset `o`. -/
def be32 (b : Buffer) (o : Fin 17) : Word :=
  b[o.val] ++ b[o.val + 1] ++ b[o.val + 2] ++ b[o.val + 3]

/-- `le16(o)` (42_decode_and_status.md R191): little-endian 16 bits from offset `o`. -/
def le16 (b : Buffer) (o : Fin 19) : Half :=
  b[o.val + 1] ++ b[o.val]

/-- The `seq_op` code (10_state.md R29). -/
def opCode : Op → BitVec 2
  | .none => 0#2
  | .init => 1#2
  | .measure => 2#2

/-- The `seq_phase` code (10_state.md R30). -/
def phaseCode : Phase → BitVec 2
  | .idle => 0#2
  | .tx => 1#2
  | .rx => 2#2
  | .fin => 3#2

/-- The `ERR_CODE` code (60_exceptions.md R230). -/
def errCodeBits : ErrCode → BitVec 4
  | .none => 0#4
  | .transportTimeout => 1#4
  | .transportError => 2#4
  | .aborted => 3#4

/-- The `REJ_CAUSE` code (60_exceptions.md R235). -/
def rejCauseBits : RejCause → BitVec 2
  | .none => 0#2
  | .busy => 1#2
  | .illegal => 2#2

/-- The `WS_CLASS` code (42_decode_and_status.md R196). -/
def wsClassBits : WsClass → BitVec 2
  | .unknown => 0#2
  | .stopped => 1#2
  | .measuring => 2#2
  | .done => 3#2

/-- The first `n` bytes of the response buffer, in order. -/
def bufTake (b : Buffer) (n : Nat) : List Byte :=
  b.toList.take n

end Sys2Proof.Machine
end

