-- ==== Sys2Proof/Machine/Flags.lean ====
section
/-! DEFINITION. Flags: the status interpreter (42_decode_and_status.md R194 to R199), the reply sum (R201), the words of STATUS, CONFIG and PARAMS (10_state.md R22, R23, R28), and the interrupt (60_exceptions.md R237). -/

namespace Sys2Proof.Machine

/-! ### Status interpreter -/

/-- The bit of `ALARM` an alarm stands at (R194). -/
def alarmBit : Alarm → Nat
  | .rpmHigh => 0
  | .rpmLow => 1
  | .tempHigh => 2
  | .tempLow => 3
  | .sensHigh => 4
  | .sensLow => 5
  | .ildHigh => 6
  | .ildLow => 7

/-- An alarm is set if and only if its bit of `ALARM` is 1 (R194). -/
def alarmSet (v : Byte) (k : Alarm) : Bool :=
  v.getLsbD (alarmBit k)

/-- The bit of `CALIB` a calibration flag stands at (R195). -/
def calibBit : CalibFlag → Nat
  | .uncalNormalT => 0
  | .uncalLowT => 1
  | .uncalHighT => 2

/-- A calibration flag is set if and only if its bit of `CALIB` is 1; bits 7:3 have no meaning (R195). -/
def calibSet (v : Byte) (k : CalibFlag) : Bool :=
  v.getLsbD (calibBit k)

/-- `WsClass(w)`, on the whole byte (R196). -/
def wsClass (w : Byte) : WsClass :=
  if w = 3#8 then .stopped
  else if w = 1#8 then .measuring
  else if w = 128#8 then .done
  else .unknown

/-- `FAULT(v)`: the supply-voltage sentinel, exactly 1000 (R197). -/
def sentinel (v : Half) : Bool :=
  v == 1000#16

/-- `OVER(v)`: above 1000, unsigned (R198). -/
def overRange (v : Half) : Bool :=
  decide (1000 < v.toNat)

/-- `INTERP` (R199), a function of the snapshot alone (10_state.md R27). -/
def interpWord (p : Snapshot) : Word :=
  0#25 ++ BitVec.ofBool (sentinel p.pm25 || sentinel p.pm10) ++ BitVec.ofBool (overRange p.pm10)
    ++ BitVec.ofBool (overRange p.pm25) ++ BitVec.ofBool (sentinel p.pm10)
    ++ BitVec.ofBool (sentinel p.pm25) ++ wsClassBits (wsClass p.workstatus)

/-! ### Reply checksum -/

/-- Whether the validator runs: present and enabled (40_wire_exchanges.md R125, R200). -/
def csumOn (s : State) : Bool :=
  s.hw.hasCsum && s.cfg.csumEn

/-- The 8-bit sum of the first `n` reply bytes (R201). -/
def replySum (b : Buffer) (n : Nat) : Byte :=
  Frame.sum8 (bufTake b n)

/-! ### Register words -/

/-- `STATUS.BUSY` = (`seq_phase` != IDLE) (10_state.md R37). -/
def busy (s : State) : Bool :=
  s.seq.phase != .idle

/-- `CONFIG` as read (10_state.md R22); bits 15:2 read 0. -/
def configWord (c : ConfigReg) : Word :=
  c.timeout ++ 0#14 ++ BitVec.ofBool c.csumEn ++ BitVec.ofBool c.irqEn

/-- `STATUS` as read (10_state.md R23, R37); bits 7, 19 and 31:27 read 0. -/
def statusWord (s : State) : Word :=
  0#5 ++ s.status.errCount ++ phaseCode s.status.errPhase ++ 0#1 ++ s.status.errCmd
    ++ errCodeBits s.status.errCode ++ rejCauseBits s.status.rejCause ++ opCode s.seq.op ++ 0#1
    ++ BitVec.ofBool s.status.csumErr ++ BitVec.ofBool s.status.reject
    ++ BitVec.ofBool s.status.initDone ++ BitVec.ofBool s.status.valid
    ++ BitVec.ofBool s.status.err ++ BitVec.ofBool s.status.done ++ BitVec.ofBool (busy s)

/-- `PARAMS` (10_state.md R28), a constant of the variant. -/
def paramsWord (h : Config.Variant) : Word :=
  Config.paramsId ++ BitVec.ofNat 4 Config.numCmds ++ 0#3 ++ BitVec.ofBool h.hasCsum
    ++ BitVec.ofNat 8 Config.bufCap

/-! ### Interrupt -/

/-- `irq = CONFIG.IRQ_EN and (STATUS.DONE or STATUS.ERR)` (60_exceptions.md R237). -/
def irq (s : State) : Bool :=
  s.cfg.irqEn && (s.status.done || s.status.err)

end Sys2Proof.Machine
end

