-- ==== Sys2Proof/Machine/Ops.lean ====
section
/-! DEFINITION. The shared operations: outcomes in sequence, error entry (60_exceptions.md R234), refusal (R235), the sequencer's control transfer (41_host_operations.md R167 to R169), the phase steps of an exchange (40_wire_exchanges.md R120 to R125), the decoder's writes (42_decode_and_status.md R192, R193), and the registers as the host reads and writes them (20_memory.md R61 to R65). -/

namespace Sys2Proof.Machine

/-- Run `f` on the next state; a stop stays a stop. -/
def andThen (o : Host.Outcome State Fault Refusal) (f : State → Host.Outcome State Fault Refusal) :
    Host.Outcome State Fault Refusal :=
  match o with
  | .next s => f s
  | .fault r => .fault r
  | .refused r => .refused r

/-! ### Errors and refusals -/

/-- `ErrorEntry(code, cmd, phase, count)` (60_exceptions.md R234), the one way an operation ends in an
error: the record is written and the sequencer goes to IDLE. There is no handler address, and no
instruction returns: the engine accepts the next operation at once (R236). -/
def raiseError (code : ErrCode) (c : WireCmd) (ph : Phase) (count : BitVec 5) (s : State) : State :=
  { s with
    status := { s.status with
      err := true, errCode := code, errCmd := cmdId c, errPhase := ph, errCount := count }
    seq := .idle }

/-- `Reject(cause)` (60_exceptions.md R235). -/
def rejectCmd (cause : RejCause) (s : State) : State :=
  { s with status := { s.status with reject := true, rejCause := cause } }

/-! ### Sequencer -/

/-- `ExchStart()` (40_wire_exchanges.md R121). -/
def exchStart (q : Sequencer) : Sequencer :=
  { q with phase := .tx, txIdx := 0#3, rxCnt := 0#5, stallCnt := 0#16 }

/-- The sequencer at the start of the exchange with index `k` of an operation (R121, R167). -/
def seqAt (o : Op) (k : BitVec 2) : Sequencer :=
  { op := o, step := k, phase := .tx, txIdx := 0#3, rxCnt := 0#5, stallCnt := 0#16 }

/-- `StartOp(o)` (41_host_operations.md R167). -/
def startOp (o : Op) (s : State) : State :=
  { s with
    status := { s.status with
      done := false, err := false, csumErr := false, errCode := .none, errCmd := 0#3,
      errPhase := .idle, errCount := 0#5,
      initDone := if o = .init then false else s.status.initDone }
    seq := seqAt o 0#2 }

/-- `StartOrReject(o)` (41_host_operations.md R160): refused while busy (R166). -/
def startOrReject (o : Op) (s : State) : State :=
  if busy s then rejectCmd .busy s else startOp o s

/-- `OpComplete()` (41_host_operations.md R169). -/
def opComplete (s : State) : State :=
  { s with
    status := { s.status with
      done := true, initDone := if s.seq.op = .init then true else s.status.initDone }
    seq := .idle }

/-- `SeqAdvance()` (41_host_operations.md R168). -/
def seqAdvance (s : State) : State :=
  if s.seq.step.toNat + 1 < (prog s.seq.op).length then
    { s with seq := exchStart { s.seq with step := s.seq.step + 1#2 } }
  else opComplete s

/-! ### The exchange primitive -/

/-- `TxOffer(b)` (00_scope.md R10): `tx_valid` = 1 and `tx_data` = b in this step. -/
def txOffer (b : Byte) (s : State) : State :=
  { s with out := { s.out with txValid := true, txData := b } }

/-- `Stall(c, phase, count)` (40_wire_exchanges.md R124). -/
def stall (c : WireCmd) (ph : Phase) (count : BitVec 5) (s : State) : State :=
  if s.cfg.timeout.toNat ≠ 0 then
    if s.seq.stallCnt.toNat + 1 ≥ s.cfg.timeout.toNat then
      raiseError .transportTimeout c ph count s
    else { s with seq := { s.seq with stallCnt := s.seq.stallCnt + 1#16 } }
  else s

/-- The offered byte moved: it joins the TX stream, and the sequencer goes to the next byte of the
frame, or to RX after the last one (40_wire_exchanges.md R122). -/
def txAccept (c : WireCmd) (b : Byte) (s : State) : State :=
  { s with
    link := { s.link with sent := s.link.sent ++ [b] }
    seq :=
      if s.seq.txIdx.toNat + 1 = flen c then
        { s.seq with phase := .rx, txIdx := 0#3, rxCnt := 0#5, stallCnt := 0#16 }
      else { s.seq with txIdx := s.seq.txIdx + 1#3, stallCnt := 0#16 } }

/-- `TxStep` (40_wire_exchanges.md R122); `tx_err` wins over `tx_ready` (60_exceptions.md R239). An index past
the frame is no position of any rule (10_state.md R31; log 8). -/
def txStep (c : WireCmd) (s : State) : Host.Outcome State Fault Refusal :=
  match (frame c)[s.seq.txIdx.toNat]? with
  | none => .fault .badSequencer
  | some b =>
    if s.pins.txErr then
      .next (raiseError .transportError c .tx (s.seq.txIdx.setWidth 5) (txOffer b s))
    else if s.pins.txReady then .next (txAccept c b (txOffer b s))
    else .next (stall c .tx (s.seq.txIdx.setWidth 5) (txOffer b s))

/-- `RxTake()` and the store of the taken byte (40_wire_exchanges.md R123): `rx_pop` = 1, the transport
removes its oldest byte (20_memory.md R67), and it goes to `buf[rx_cnt]`. -/
def rxTake (c : WireCmd) (b : Byte) (rest : List Byte) (s : State) : State :=
  { s with
    out := { s.out with rxPop := true }
    link := { s.link with rxq := rest }
    buf := s.buf.setIfInBounds s.seq.rxCnt.toNat b
    seq := { s.seq with
      rxCnt := s.seq.rxCnt + 1#5, stallCnt := 0#16,
      phase := if s.seq.rxCnt.toNat + 1 = rlen c then .fin else s.seq.phase } }

/-- `RxStep` (40_wire_exchanges.md R123). `rx_avail` = (queue not empty), `rx_data` = its head (20_memory.md
R68). A count past the reply is no position of any rule (10_state.md R32; log 8). -/
def rxStep (c : WireCmd) (s : State) : Host.Outcome State Fault Refusal :=
  if s.seq.rxCnt.toNat < rlen c then
    match s.link.rxq with
    | b :: rest => .next (rxTake c b rest s)
    | [] => .next (stall c .rx s.seq.rxCnt s)
  else .fault .badSequencer

/-- `CsumCheck(n)` when the validator is on (42_decode_and_status.md R201, 40_wire_exchanges.md R125): a
nonzero sum sets `CSUM_ERR` and nothing else. -/
def csumCheck (n : Nat) (s : State) : State :=
  if csumOn s ∧ replySum s.buf n ≠ 0#8 then { s with status := { s.status with csumErr := true } }
  else s

/-- `FinStep` (40_wire_exchanges.md R125), with the command's `Post`. -/
def finStep (c : WireCmd) (post : State → State) (s : State) : State :=
  seqAdvance (post (csumCheck (rlen c) s))

/-- The engine part of a step for the exchange of command `c` (40_wire_exchanges.md R120): the rule of
the current phase. In IDLE nothing. -/
def exchangeStep (c : WireCmd) (post : State → State) (s : State) :
    Host.Outcome State Fault Refusal :=
  match s.seq.phase with
  | .idle => .next s
  | .tx => txStep c s
  | .rx => rxStep c s
  | .fin => .next (finStep c post s)

/-! ### Post-processing -/

/-- `Post` of the opaque replies (40_wire_exchanges.md R127 to R130): nothing. -/
def postNothing (s : State) : State := s

/-- `DecodePC()` (42_decode_and_status.md R192). -/
def decodePC (s : State) : State :=
  { s with stg := { c05 := be32 s.buf 3, c25 := be32 s.buf 7, c10 := be32 s.buf 11 } }

/-- `DecodeConcAndCommit()` (42_decode_and_status.md R193): all eight snapshot registers and `VALID`. -/
def decodeConcAndCommit (s : State) : State :=
  { s with
    snap :=
      { count05 := s.stg.c05, count25 := s.stg.c25, count10 := s.stg.c10
        pm25 := le16 s.buf 5, pm10 := le16 s.buf 9
        alarm := s.buf[15], calib := s.buf[17], workstatus := s.buf[18] }
    status := { s.status with valid := true } }

/-! ### Host registers -/

/-- `MemRead(addr, 4)` (20_memory.md R61 to R63, R71): the register's value, zero-extended; unmapped words
read 0. -/
def hostRead (a : BitVec 6) (s : State) : Word :=
  match regAt a with
  | some .cmd => 0#32
  | some .config => configWord s.cfg
  | some .status => statusWord s
  | some .interp => interpWord s.snap
  | some .count05 => s.snap.count05
  | some .count25 => s.snap.count25
  | some .count10 => s.snap.count10
  | some .pm25 => s.snap.pm25.setWidth 32
  | some .pm10 => s.snap.pm10.setWidth 32
  | some .alarm => s.snap.alarm.setWidth 32
  | some .calib => s.snap.calib.setWidth 32
  | some .workstatus => s.snap.workstatus.setWidth 32
  | some .params => paramsWord s.hw
  | none => 0#32

/-- A write to `CONFIG` (41_host_operations.md R170); `CSUM_EN` stays 0 when `HAS_CSUM` = 0. -/
def configWrite (d : Word) (s : State) : State :=
  { s with
    cfg :=
      { irqEn := d.getLsbD 0
        csumEn := d.getLsbD 1 && s.hw.hasCsum
        timeout := d.extractLsb' 16 16 } }

/-- A write to `STATUS` (41_host_operations.md R171): write one to clear. Clearing `ERR` clears its record,
clearing `REJECT` clears its cause. -/
def statusWrite (d : Word) (s : State) : State :=
  { s with
    status := { s.status with
      done := s.status.done && !d.getLsbD 1
      err := s.status.err && !d.getLsbD 2
      errCode := if d.getLsbD 2 then .none else s.status.errCode
      errCmd := if d.getLsbD 2 then 0#3 else s.status.errCmd
      errPhase := if d.getLsbD 2 then .idle else s.status.errPhase
      errCount := if d.getLsbD 2 then 0#5 else s.status.errCount
      reject := s.status.reject && !d.getLsbD 5
      rejCause := if d.getLsbD 5 then .none else s.status.rejCause
      csumErr := s.status.csumErr && !d.getLsbD 6 } }

end Sys2Proof.Machine
end

