-- ==== Sys2Proof/Machine/Exchanges.lean ====
section
/-! DEFINITION. The six wire exchanges (40_wire_exchanges.md R127 to R132): the engine part of one step of each. -/

namespace Sys2Proof.Machine

/-- `CLOSE` (R127): opaque 5-byte reply. -/
def execClose (s : State) : Host.Outcome State Fault Refusal :=
  exchangeStep .close postNothing s

/-- `READ_SERIAL` (R128): opaque 14-byte reply, a liveness probe. -/
def execReadSerial (s : State) : Host.Outcome State Fault Refusal :=
  exchangeStep .readSerial postNothing s

/-- `OPEN` (R129): opaque 5-byte reply. -/
def execOpen (s : State) : Host.Outcome State Fault Refusal :=
  exchangeStep .openCmd postNothing s

/-- `SET_CONT` (R130): opaque 6-byte reply. -/
def execSetCont (s : State) : Host.Outcome State Fault Refusal :=
  exchangeStep .setCont postNothing s

/-- `READ_CONC` (R131): its `Post` commits the snapshot. -/
def execReadConc (s : State) : Host.Outcome State Fault Refusal :=
  exchangeStep .readConc decodeConcAndCommit s

/-- `READ_PC` (R132): its `Post` fills the staging registers. -/
def execReadPc (s : State) : Host.Outcome State Fault Refusal :=
  exchangeStep .readPc decodePC s

end Sys2Proof.Machine
end

