-- ==== Sys2Proof/Machine/HostOps.lean ====
section
/-! DEFINITION. The host operations NOP, INIT, MEASURE, ABORT (41_host_operations.md R161 to R164): the host part of the step that writes them to CMD. -/

namespace Sys2Proof.Machine

/-- `NOP` (R161): nothing, busy or not. -/
def execNop (_x : BitVec 24) (s : State) : Host.Outcome State Fault Refusal :=
  .next s

/-- `INIT` (R162): start `PROG[INIT]`, or be refused while busy (R166, R167). -/
def execInit (_x : BitVec 24) (s : State) : Host.Outcome State Fault Refusal :=
  .next (startOrReject .init s)

/-- `MEASURE` (R163): start `PROG[MEASURE]`, or be refused while busy (R166, R167). -/
def execMeasure (_x : BitVec 24) (s : State) : Host.Outcome State Fault Refusal :=
  .next (startOrReject .measure s)

/-- The bytes already moved in the current phase, as ABORT records them (R164). -/
def abortCount (q : Sequencer) : BitVec 5 :=
  if q.phase = .tx then q.txIdx.setWidth 5 else q.rxCnt

/-- `ABORT` (R164): when busy, raise Aborted (60_exceptions.md R233); when idle, nothing. Busy without a current
command is no position of any rule (10_state.md R30; log 8). -/
def execAbort (_x : BitVec 24) (s : State) : Host.Outcome State Fault Refusal :=
  if busy s then
    match curCmd s.seq with
    | some c => .next (raiseError .aborted c s.seq.phase (abortCount s.seq) s)
    | none => .fault .badSequencer
  else .next s

end Sys2Proof.Machine
end

