-- ==== Sys2Proof/Machine/Dispatch.lean ====
section
/-! DEFINITION. One arm per constructor of Instr: its meaning. -/

namespace Sys2Proof.Machine

def exec (i : Instr) (s : State) : Host.Outcome State Fault Refusal :=
  match i with
  | .nop x => Sys2Proof.Machine.execNop x s
  | .init x => Sys2Proof.Machine.execInit x s
  | .measure x => Sys2Proof.Machine.execMeasure x s
  | .abort x => Sys2Proof.Machine.execAbort x s
  | .close => Sys2Proof.Machine.execClose s
  | .readSerial => Sys2Proof.Machine.execReadSerial s
  | .openCmd => Sys2Proof.Machine.execOpen s
  | .setCont => Sys2Proof.Machine.execSetCont s
  | .readConc => Sys2Proof.Machine.execReadConc s
  | .readPc => Sys2Proof.Machine.execReadPc s

end Sys2Proof.Machine
end

