-- ==== Sys2Proof/Machine/Cycle.lean ====
section
/-! DEFINITION. One clock cycle (00_scope.md R7): sample the inputs, reset or host part then engine part, drive the outputs. -/

namespace Sys2Proof.Machine

/-! ### Inputs -/

/-- The inputs of the coming step: the next of `sched`, or a free draw when there is none (log 2). -/
def nextInputs (s : State) : Inputs :=
  match s.sched with
  | i :: _ => i
  | [] => Config.freeInputs s.draws

/-- Sample the inputs of this step: the sensor's bytes have joined the queue (20_memory.md R68; log 17), and no
output is driven yet. -/
def latch (s : State) : State :=
  { s with
    pins := nextInputs s
    sched := s.sched.tail
    draws := if s.sched.isEmpty then s.draws + 1 else s.draws
    link := { s.link with rxq := s.link.rxq ++ (nextInputs s).arrivals }
    out := .quiet }

/-! ### Reset -/

/-- A step with `rst` = 1 (70_reset_and_hazards.md R270): every piece of engine state to its reset value, the
host port ignored (a read returns 0), no output driven. The transport is not reached (R272; log 6). DESIGN
CHOICE: `buf` and the staging registers take the values of `State.reset` (log 14). -/
def resetCycle (s : State) : State :=
  { State.reset with
    hw := s.hw, link := s.link, pins := s.pins, sched := s.sched, draws := s.draws
    out := { Outputs.quiet with
      hrdata := if s.pins.hsel && !s.pins.hwrite then some 0#32 else none } }

/-! ### Host part -/

/-- `CmdWrite(d)` (41_host_operations.md R160): run the host operation, or refuse an illegal code (R165). -/
def cmdWrite (d : Word) (s : State) : Host.Outcome State Fault Refusal :=
  match decodeHostOp d with
  | .instr i => exec i s
  | .rejected _ => .next (rejectCmd .illegal s)

/-- `MemWrite(addr, 4, d)` (20_memory.md R65): `CMD`, `CONFIG` and `STATUS` have a write rule; a write to a
read-only register (41_host_operations.md R172) or an unmapped word (R63) has no effect. -/
def hostWrite (a : BitVec 6) (d : Word) (s : State) : Host.Outcome State Fault Refusal :=
  match regAt a with
  | some .cmd => cmdWrite d s
  | some .config => .next (configWrite d s)
  | some .status => .next (statusWrite d s)
  | some _ => .next s
  | none => .next s

/-- The host access of the step (20_memory.md R62). -/
def hostPart (s : State) : Host.Outcome State Fault Refusal :=
  if s.pins.hsel then
    if s.pins.hwrite then hostWrite s.pins.haddr s.pins.hwdata s
    else .next { s with out := { s.out with hrdata := some (hostRead s.pins.haddr s) } }
  else .next s

/-! ### Engine part -/

/-- The exchange the sequencer is at (10_state.md R29): the wire row of the opcode table that the engine
part runs, none when idle. -/
def fetchExchange (s : State) : Option Instr :=
  (curCmd s.seq).map Instr.ofCmd

/-- The engine part of a step (40_wire_exchanges.md R120): nothing in IDLE, else one step of the current
exchange. Busy without a current command is no position of any rule (log 8). -/
def enginePart (s : State) : Host.Outcome State Fault Refusal :=
  if busy s then
    match fetchExchange s with
    | some i => exec i s
    | none => .fault .badSequencer
  else .next s

/-- Drive `irq` from the state at the end of the step (60_exceptions.md R237). -/
def driveIrq (s : State) : State :=
  { s with out := { s.out with irq := irq s } }

/-- One clock cycle (00_scope.md R7, 60_exceptions.md R239). -/
def cycle (s : State) : Host.Outcome State Fault Refusal :=
  if (latch s).pins.rst then .next (resetCycle (latch s))
  else andThen (andThen (hostPart (latch s)) enginePart) fun t => .next (driveIrq t)

/-! ### Placing an instruction -/

/-- The inputs of a cycle in which the host writes `d` to the register at word address `a`, and the
transport accepts a byte if one is offered (log 10). -/
def writeInputs (a : BitVec 6) (d : Word) : Inputs :=
  { Inputs.quiet with hsel := true, hwrite := true, haddr := a, hwdata := d, txReady := true }

/-- The inputs of a cycle in which the host does nothing and the transport accepts a byte if one is
offered. -/
def readyInputs : Inputs :=
  { Inputs.quiet with txReady := true }

/-- Make the next step run the instruction of a code (log 10): for a `CMD` word the host writes it in the
next cycle; for a frame the sequencer stands at the start of that exchange. A byte list that is no
frame of the table changes nothing: the engine sends no other frame (30_encoding.md R92). -/
def placeCode (c : Code) (s : State) : State :=
  match c with
  | .cmdWord d => { s with sched := writeInputs (regAddr .cmd) d :: s.sched }
  | .frameBytes bs =>
    match decodeFrame bs with
    | .instr i =>
      match i.cmd? with
      | some w =>
        { s with
          sched := readyInputs :: s.sched
          seq := seqAt (progPlace w).1 (progPlace w).2 }
      | none => s
    | .rejected _ => s

end Sys2Proof.Machine
end

