-- ==== Sys2Proof/Machine/Step.lean ====
section
/-! DEFINITION. The step of the machine, one clock cycle, and the placing of a table word where the next step runs it. -/

namespace Sys2Proof.Machine

/-- One step (00_scope.md R7). -/
def step (s : State) : Host.Outcome State Fault Refusal :=
  cycle s

/-- `s` with the instruction of a table word placed so that the very next step runs it (log 10). -/
def State.withFetchWord (s : State) (nbits w : Nat) : State :=
  placeCode (tableCode nbits w) s

end Sys2Proof.Machine
end

