-- ==== Sys2Proof/Safety.lean ====
section
/-! DEFINITION. What claims are stated in: the invariant of reachable states, the TX stream an operation has produced, states that differ only where no rule reads, and runs. -/

namespace Sys2Proof.Machine

/-! ### The invariant -/

/-- The positions of the sequencer that the rules produce (10_state.md R29 to R33): idle with every
counter 0, or at an exchange of a program with its counters in range. -/
def seqOk (q : Sequencer) : Bool :=
  match curCmd q with
  | none => q == Sequencer.idle
  | some c =>
    decide (q.stallCnt.toNat ≤ 65534) &&
    match q.phase with
    | .idle => false
    | .tx => decide (q.txIdx.toNat < flen c) && q.rxCnt == 0#5
    | .rx => q.txIdx == 0#3 && decide (q.rxCnt.toNat < rlen c)
    | .fin => q.txIdx == 0#3 && decide (q.rxCnt.toNat = rlen c) && q.stallCnt == 0#16

/-- What holds of every reachable state. -/
structure EngineInv (s : State) : Prop where
  /-- the sequencer is at a position of the rules (10_state.md R29 to R33) -/
  seq : seqOk s.seq = true
  /-- while an operation runs, `DONE` and `ERR` are 0 (41_host_operations.md R167, 60_exceptions.md R234) -/
  busyClear : busy s = true → s.status.done = false ∧ s.status.err = false
  /-- `DONE` and `ERR` are never both 1 (41_host_operations.md R173) -/
  oneEnd : s.status.done = true → s.status.err = false
  /-- `ERR` is 1 exactly when an error is recorded (10_state.md R23) -/
  errCode : s.status.err = true ↔ s.status.errCode ≠ .none
  /-- with no error recorded the record is 0 (10_state.md R23, 41_host_operations.md R171) -/
  noRecord : s.status.errCode = .none →
    s.status.errCmd = 0#3 ∧ s.status.errPhase = .idle ∧ s.status.errCount = 0#5
  /-- a recorded error names a command, a phase and a count in range (10_state.md R23) -/
  record : s.status.errCode ≠ .none →
    s.status.errCmd.toNat < 6 ∧ s.status.errPhase ≠ .idle ∧ s.status.errCount.toNat ≤ 20
  /-- TransportError is recorded in TX, and only ABORT is recorded in FIN (60_exceptions.md R231 to R233) -/
  recordPhase : (s.status.errCode = .transportError → s.status.errPhase = .tx) ∧
    (s.status.errPhase = .fin → s.status.errCode = .aborted)
  /-- `REJECT` is 1 exactly when a cause is recorded (60_exceptions.md R235) -/
  rejCause : s.status.reject = true ↔ s.status.rejCause ≠ .none
  /-- while an INIT runs, `INIT_DONE` is 0 (41_host_operations.md R167) -/
  initRunning : s.seq.op = .init → s.status.initDone = false
  /-- without a validator its two bits are 0 (42_decode_and_status.md R202) -/
  noValidator : s.hw.hasCsum = false → s.cfg.csumEn = false ∧ s.status.csumErr = false
  /-- before the first commit the snapshot is at its reset value (10_state.md R23, R38) -/
  noSnapshot : s.status.valid = false → s.snap = Snapshot.reset

/-! ### The TX stream -/

/-- What the operation in progress has put on the TX stream (20_memory.md R69, R74): the whole frames of
its finished exchanges, then the bytes of the current frame already accepted. -/
def wireSoFar (q : Sequencer) : List Byte :=
  match curCmd q with
  | none => []
  | some c =>
    ((prog q.op).take q.step.toNat).flatMap frame ++
      match q.phase with
      | .tx => (frame c).take q.txIdx.toNat
      | .idle | .rx | .fin => frame c

/-- The TX stream ends in what the operation in progress has sent. -/
abbrev SentOk (s : State) : Prop :=
  wireSoFar s.seq <:+ s.link.sent

/-! ### States that differ only where no rule reads -/

/-- Two states that agree but for the bytes of `buf` that the current exchange has not written and the
staging registers that the current MEASURE has not written (10_state.md R39). -/
structure SameButUnwritten (s t : State) : Prop where
  rest : t = { s with buf := t.buf, stg := t.stg }
  buf : bufTake s.buf s.seq.rxCnt.toNat = bufTake t.buf s.seq.rxCnt.toNat
  stg : s.seq.op = .measure → s.seq.step = 1#2 → s.stg = t.stg

/-! ### Runs -/

/-- `k` steps, stopping at the first fault or refusal. -/
def run : Nat → State → Host.Outcome State Fault Refusal
  | 0, s => .next s
  | k + 1, s => andThen (step s) (run k)

/-- The minimal schedule of 70_reset_and_hazards.md R282: the host does nothing and the transport accepts
every byte. -/
def readySteps (k : Nat) : List Inputs :=
  List.replicate k readyInputs

/-- Nothing moves: the host does nothing, no byte is accepted and none arrives. -/
def stalledSteps (k : Nat) : List Inputs :=
  List.replicate k Inputs.quiet

/-- The snapshot that a MEASURE commits from its two replies (42_decode_and_status.md R192, R193), read as
lists of bytes. -/
def snapshotOf (pc conc : List Byte) : Snapshot :=
  let p := fun k => pc.getD k 0#8
  let q := fun k => conc.getD k 0#8
  { count05 := p 3 ++ p 4 ++ p 5 ++ p 6
    count25 := p 7 ++ p 8 ++ p 9 ++ p 10
    count10 := p 11 ++ p 12 ++ p 13 ++ p 14
    pm25 := q 6 ++ q 5
    pm10 := q 10 ++ q 9
    alarm := q 15
    calib := q 17
    workstatus := q 18 }

/-- Whether a reply fails the checksum rule of 42_decode_and_status.md R201. -/
def badSum (reply : List Byte) : Bool :=
  Frame.sum8 reply != 0#8

end Sys2Proof.Machine
end

