-- ==== Sys2Proof/Certificates/Slice0/Obligations.lean ====
section
/-! DEFINITION. The statements for the provers. Each docstring names the rule of spec/ it formalises. -/

open Sys2Proof Sys2Proof.Machine

/-! ### Encoding -/

/-- 30_encoding.md R98, R99: the low byte of a word written to `CMD` selects the operation, whatever the
other 24 bits are, and every other low byte is illegal. That the decoded instruction carries the ignored
bits `x` as an operand is the model's choice (log 11). -/
def Obligations.HostOpcodeSelectsOperation : Prop :=
  ∀ (x : BitVec 24) (op : Byte),
    (op = 0x00#8 → decode (.cmdWord (x ++ op)) = .instr (.nop x)) ∧
    (op = 0x01#8 → decode (.cmdWord (x ++ op)) = .instr (.init x)) ∧
    (op = 0x02#8 → decode (.cmdWord (x ++ op)) = .instr (.measure x)) ∧
    (op = 0x0F#8 → decode (.cmdWord (x ++ op)) = .instr (.abort x)) ∧
    (op ≠ 0x00#8 → op ≠ 0x01#8 → op ≠ 0x02#8 → op ≠ 0x0F#8 →
      decode (.cmdWord (x ++ op)) = .rejected .illegalOp)

/-- Decoder and encoder agree in both directions, over every word and every byte list: a code decodes to
an instruction exactly when it is that instruction's encoding. Rests on 30_encoding.md R92 and R98 and on the
model's choice to keep the ignored bits (log 11). -/
def Obligations.DecodeIffEncode : Prop :=
  ∀ (c : Code) (i : Instr), decode c = .instr i ↔ c = encode i

/-- Sanity: words and frames written out from the tables of R92 and R98 decode to what they stand for, and
the negative vectors of 95_test_vectors.md L2.1 are rejected. Three things in it are the model's choice: the
operand that keeps the ignored bits of a `CMD` word (log 11), the numbering of the two table words of the
last two clauses (log 9), and the name `unknownFrame` of the rejection (log 18). -/
def Obligations.TableWordsDecode : Prop :=
  decode (.cmdWord 0xFFFFFF00#32) = .instr (.nop 0xFFFFFF#24) ∧
  decode (.cmdWord 0x12345601#32) = .instr (.init 0x123456#24) ∧
  decode (.cmdWord 0x00000002#32) = .instr (.measure 0#24) ∧
  decode (.cmdWord 0x0000000F#32) = .instr (.abort 0#24) ∧
  decode (.cmdWord 0x00000003#32) = .rejected .illegalOp ∧
  decode (.frameBytes [0x11, 0x03, 0x0C, 0x01, 0x1E, 0xC1]) = .instr .close ∧
  decode (.frameBytes [0x11, 0x01, 0x1F, 0xCF]) = .instr .readSerial ∧
  decode (.frameBytes [0x11, 0x03, 0x0D, 0xFF, 0xFB, 0xE5]) = .instr .setCont ∧
  decode (.frameBytes [0x11, 0x03, 0x0D, 0xFF, 0xFF, 0xE1]) = .rejected .unknownFrame ∧
  decodeTableWord 32 0x11010BE3 = some .readPc ∧
  decodeTableWord 40 0x11020B01E1 = some .readConc

/-- 30_encoding.md R90, R91: every frame is `[0x11] [L] [L body bytes] [S]` of `FLEN = L + 3` bytes, its 8-bit
sum is 0 and its last byte is 0x100 minus the sum of the others, modulo 0x100. The lengths `L`, the frames,
their ids and their reply lengths are those of the table of R92; `SET_CONT` carries FF FB (R93). -/
def Obligations.FramesHaveTheirShape : Prop :=
  (∀ c : WireCmd, (frame c).length = flen c ∧ flen c ≤ 6 ∧ 0 < rlen c ∧ rlen c ≤ 20 ∧
    ∃ (l : Byte) (body : List Byte) (cs : Byte),
      frame c = 0x11#8 :: l :: (body ++ [cs]) ∧ body.length = l.toNat ∧ flen c = l.toNat + 3 ∧
      Frame.sum8 (frame c) = 0x00#8 ∧ cs = 0#8 - Frame.sum8 (0x11#8 :: l :: body)) ∧
  [WireCmd.close, .readSerial, .openCmd, .setCont, .readConc, .readPc].map
      (fun c => ((cmdId c).toNat, frame c, flen c, rlen c)) =
    [(0, [0x11#8, 0x03#8, 0x0C#8, 0x01#8, 0x1E#8, 0xC1#8], 6, 5),
      (1, [0x11#8, 0x01#8, 0x1F#8, 0xCF#8], 4, 14),
      (2, [0x11#8, 0x03#8, 0x0C#8, 0x02#8, 0x1E#8, 0xC0#8], 6, 5),
      (3, [0x11#8, 0x03#8, 0x0D#8, 0xFF#8, 0xFB#8, 0xE5#8], 6, 6),
      (4, [0x11#8, 0x02#8, 0x0B#8, 0x01#8, 0xE1#8], 5, 20),
      (5, [0x11#8, 0x01#8, 0x0B#8, 0xE3#8], 4, 20)]

/-! ### Reset -/

/-- 10_state.md R38: what every register reads after reset, the sequencer and the outputs. That `PARAMS` reads
0x20056114 there, and not 0x20056014 (10_state.md R28), rests on the model's choice of `HAS_CSUM` = 1 in
`State.reset` (log 3). -/
def Obligations.ResetValues : Prop :=
  State.reset.cfg = { irqEn := false, csumEn := false, timeout := 0#16 } ∧
  (∀ a : BitVec 6, a ≠ regAddr .params → hostRead a State.reset = 0#32) ∧
  hostRead (regAddr .params) State.reset = 0x20056114#32 ∧
  State.reset.seq =
    { op := .none, step := 0#2, phase := .idle, txIdx := 0#3, rxCnt := 0#5, stallCnt := 0#16 } ∧
  State.reset.out.txValid = false ∧ State.reset.out.rxPop = false ∧ State.reset.out.irq = false

/-- 70_reset_and_hazards.md R270, R272: a step with `rst` = 1, in every state. The reset values of `buf` and
of the staging registers, which are the model's choice (logs 4, 5), are left out. -/
def Obligations.ResetStep : Prop :=
  ∀ s : State, (nextInputs s).rst = true →
    ∃ t, step s = .next t ∧
      t.cfg = State.reset.cfg ∧ t.status = State.reset.status ∧ t.snap = State.reset.snap ∧
      t.seq = Sequencer.idle ∧ t.hw = s.hw ∧
      t.out.txValid = false ∧ t.out.rxPop = false ∧ t.out.irq = false ∧
      ((nextInputs s).hsel = true → (nextInputs s).hwrite = false → t.out.hrdata = some 0#32) ∧
      t.link.rxq = s.link.rxq ++ (nextInputs s).arrivals ∧ t.link.sent = s.link.sent

/-! ### The cycle -/

/-- 00_scope.md R7, 41_host_operations.md R160: in a step whose host writes a word to `CMD` that decodes to `i`,
the machine runs `exec i`, then the engine part on the state it left, then drives `irq`. -/
def Obligations.StepRunsHostOperation : Prop :=
  ∀ (s : State) (i : Instr), (nextInputs s).rst = false → (nextInputs s).hsel = true →
    (nextInputs s).hwrite = true → (nextInputs s).haddr = regAddr .cmd →
    decode (.cmdWord (nextInputs s).hwdata) = .instr i →
    step s = andThen (andThen (exec i (latch s)) enginePart) fun t => .next (driveIrq t)

/-- 00_scope.md R7, 40_wire_exchanges.md R120: after a host part that left `u`, the machine runs `exec i` for the
wire exchange `i` whose frame the sequencer stands at. -/
def Obligations.StepRunsExchange : Prop :=
  ∀ (s u : State) (c : WireCmd) (i : Instr), (nextInputs s).rst = false →
    hostPart (latch s) = .next u → u.seq.phase ≠ .idle → curCmd u.seq = some c →
    decode (.frameBytes (frame c)) = .instr i →
    step s = andThen (exec i u) fun t => .next (driveIrq t)

/-- 40_wire_exchanges.md R120, 60_exceptions.md R244: an idle engine with no host access keeps every piece of engine
state and drives no transport output; the queue only gains what the sensor sends. -/
def Obligations.IdleIsQuiescent : Prop :=
  ∀ s : State, s.seq.phase = .idle → (nextInputs s).rst = false → (nextInputs s).hsel = false →
    ∃ t, step s = .next t ∧
      t.cfg = s.cfg ∧ t.status = s.status ∧ t.snap = s.snap ∧ t.seq = s.seq ∧ t.buf = s.buf ∧
      t.stg = s.stg ∧ t.hw = s.hw ∧ t.out.txValid = false ∧ t.out.txData = 0x00#8 ∧
      t.out.rxPop = false ∧ t.link.sent = s.link.sent ∧
      t.link.rxq = s.link.rxq ++ (nextInputs s).arrivals

/-- 10_state.md R40: the outputs of a step as functions of the state the host part leaves, `hrdata` of the
state before the engine part, `irq` of the state at the end. -/
def Obligations.OutputsOfAStep : Prop :=
  ∀ s : State, EngineInv s → (nextInputs s).rst = false →
    ∃ u t, hostPart (latch s) = .next u ∧ step s = .next t ∧
      t.out.txValid = (u.seq.phase == .tx) ∧
      (t.out.txValid = true → ∃ c, curCmd u.seq = some c ∧
        (frame c)[u.seq.txIdx.toNat]? = some t.out.txData) ∧
      (t.out.txValid = false → t.out.txData = 0x00#8) ∧
      t.out.rxPop = (u.seq.phase == .rx && !u.link.rxq.isEmpty) ∧
      t.out.irq = (t.cfg.irqEn && (t.status.done || t.status.err)) ∧
      ((nextInputs s).hsel = true → (nextInputs s).hwrite = false →
        t.out.hrdata = some (hostRead (nextInputs s).haddr s))

/-- 20_memory.md R66, R67: the transport's two streams move only by the handshakes. The queue loses its oldest
byte exactly when `rx_pop` = 1; the TX stream gains the offered byte exactly when it is accepted. -/
def Obligations.StreamsMoveByHandshake : Prop :=
  ∀ s t : State, step s = .next t →
    t.link.rxq =
      (if t.out.rxPop then (s.link.rxq ++ (nextInputs s).arrivals).tail
      else s.link.rxq ++ (nextInputs s).arrivals) ∧
    t.link.sent =
      (if t.out.txValid && (nextInputs s).txReady && !(nextInputs s).txErr then
        s.link.sent ++ [t.out.txData]
      else s.link.sent)

/-- 60_exceptions.md R237: `irq` at the end of every step, reset steps included. -/
def Obligations.IrqFollowsDoneOrErr : Prop :=
  ∀ s t : State, step s = .next t →
    t.out.irq = (t.cfg.irqEn && (t.status.done || t.status.err))

/-- 60_exceptions.md R238, R239: the three ways to acknowledge. In a step where the engine sets neither flag
again, `irq` is 0 at its end: a W1C write of both bits while idle; an INIT or MEASURE accepted in a step
that does not itself end in an error; a `CONFIG` write with `IRQ_EN` = 0 in any state. -/
def Obligations.IrqAcknowledge : Prop :=
  (∀ s : State, s.seq.phase = .idle → (nextInputs s).rst = false → (nextInputs s).hsel = true →
    (nextInputs s).hwrite = true → (nextInputs s).haddr = regAddr .status →
    (nextInputs s).hwdata.getLsbD 1 = true → (nextInputs s).hwdata.getLsbD 2 = true →
    ∃ t, step s = .next t ∧ t.out.irq = false) ∧
  (∀ (s : State) (x : BitVec 24), s.seq.phase = .idle → (nextInputs s).rst = false →
    (nextInputs s).hsel = true → (nextInputs s).hwrite = true →
    (nextInputs s).haddr = regAddr .cmd →
    (nextInputs s).hwdata = cmdWordOf x 0x01#8 ∨ (nextInputs s).hwdata = cmdWordOf x 0x02#8 →
    (nextInputs s).txErr = false → (nextInputs s).txReady = true ∨ s.cfg.timeout ≠ 1#16 →
    ∃ t, step s = .next t ∧ t.out.irq = false) ∧
  (∀ s : State, EngineInv s → (nextInputs s).rst = false → (nextInputs s).hsel = true →
    (nextInputs s).hwrite = true → (nextInputs s).haddr = regAddr .config →
    (nextInputs s).hwdata.getLsbD 0 = false →
    ∃ t, step s = .next t ∧ t.out.irq = false)

/-! ### Host registers -/

/-- 20_memory.md R64: a read has no side effect. A step whose host reads any address ends in the same state as
the step with no access, but for the recorded inputs and `hrdata`. -/
def Obligations.ReadsHaveNoSideEffect : Prop :=
  ∀ (s : State) (i : Inputs) (rest : List Inputs) (a : BitVec 6), EngineInv s →
    s.sched = i :: rest → i.hsel = false →
    ∃ t, step s = .next t ∧
      ∃ v, step { s with sched := { i with hsel := true, hwrite := false, haddr := a } :: rest } =
        .next { t with
          pins := { i with hsel := true, hwrite := false, haddr := a }
          out := { t.out with hrdata := some v } }

/-- 20_memory.md R63: unmapped words read 0 and ignore writes; reserved bits of mapped registers read 0 and
ignore writes; and no access of any address stops the machine. -/
def Obligations.UnmappedAndReservedBits : Prop :=
  (∀ (s : State) (a : BitVec 6) (d : Word), 13 ≤ a.toNat →
    hostRead a s = 0#32 ∧ hostWrite a d s = .next s) ∧
  (∀ s : State,
    (hostRead (regAddr .config) s).extractLsb' 2 14 = 0#14 ∧
    (hostRead (regAddr .status) s).extractLsb' 7 1 = 0#1 ∧
    (hostRead (regAddr .status) s).extractLsb' 19 1 = 0#1 ∧
    (hostRead (regAddr .status) s).extractLsb' 27 5 = 0#5 ∧
    (hostRead (regAddr .interp) s).extractLsb' 7 25 = 0#25 ∧
    (hostRead (regAddr .pm25) s).extractLsb' 16 16 = 0#16 ∧
    (hostRead (regAddr .pm10) s).extractLsb' 16 16 = 0#16 ∧
    (hostRead (regAddr .alarm) s).extractLsb' 8 24 = 0#24 ∧
    (hostRead (regAddr .calib) s).extractLsb' 8 24 = 0#24 ∧
    (hostRead (regAddr .workstatus) s).extractLsb' 8 24 = 0#24 ∧
    (hostRead (regAddr .params) s).extractLsb' 9 3 = 0#3) ∧
  (∀ (s : State) (d : Word),
    hostWrite (regAddr .config) d s = hostWrite (regAddr .config) (d &&& 0xFFFF0003#32) s ∧
    hostWrite (regAddr .status) d s = hostWrite (regAddr .status) (d &&& 0x00000066#32) s) ∧
  (∀ (s : State) (a : BitVec 6) (d : Word), EngineInv s → ∃ t, hostWrite a d s = .next t)

/-- 20_memory.md R61, R63, 10_state.md R21 to R28, 42_decode_and_status.md R199: what each of the 64 word addresses
reads, the whole word as a number. Rests on those tables. -/
def Obligations.RegisterReads : Prop :=
  ∀ s : State,
    hostRead 0#6 s = 0#32 ∧
    (hostRead 1#6 s).toNat =
      s.cfg.irqEn.toNat + 2 * s.cfg.csumEn.toNat + 2 ^ 16 * s.cfg.timeout.toNat ∧
    (hostRead 2#6 s).toNat =
      (if s.seq.phase = .idle then 0 else 1) + 2 * s.status.done.toNat + 4 * s.status.err.toNat +
        8 * s.status.valid.toNat + 16 * s.status.initDone.toNat + 32 * s.status.reject.toNat +
        64 * s.status.csumErr.toNat +
        2 ^ 8 * (match s.seq.op with | .none => 0 | .init => 1 | .measure => 2) +
        2 ^ 10 * (match s.status.rejCause with | .none => 0 | .busy => 1 | .illegal => 2) +
        2 ^ 12 * (match s.status.errCode with
          | .none => 0 | .transportTimeout => 1 | .transportError => 2 | .aborted => 3) +
        2 ^ 16 * s.status.errCmd.toNat +
        2 ^ 20 * (match s.status.errPhase with | .idle => 0 | .tx => 1 | .rx => 2 | .fin => 3) +
        2 ^ 22 * s.status.errCount.toNat ∧
    (hostRead 3#6 s).toNat =
      (if s.snap.workstatus.toNat = 3 then 1 else if s.snap.workstatus.toNat = 1 then 2
        else if s.snap.workstatus.toNat = 128 then 3 else 0) +
        (if s.snap.pm25.toNat = 1000 then 4 else 0) + (if s.snap.pm10.toNat = 1000 then 8 else 0) +
        (if 1000 < s.snap.pm25.toNat then 16 else 0) +
        (if 1000 < s.snap.pm10.toNat then 32 else 0) +
        (if s.snap.pm25.toNat = 1000 ∨ s.snap.pm10.toNat = 1000 then 64 else 0) ∧
    hostRead 4#6 s = s.snap.count05 ∧ hostRead 5#6 s = s.snap.count25 ∧
    hostRead 6#6 s = s.snap.count10 ∧
    (hostRead 7#6 s).toNat = s.snap.pm25.toNat ∧ (hostRead 8#6 s).toNat = s.snap.pm10.toNat ∧
    (hostRead 9#6 s).toNat = s.snap.alarm.toNat ∧ (hostRead 10#6 s).toNat = s.snap.calib.toNat ∧
    (hostRead 11#6 s).toNat = s.snap.workstatus.toNat ∧
    hostRead 12#6 s = (if s.hw.hasCsum then 0x20056114#32 else 0x20056014#32) ∧
    ∀ a : BitVec 6, 13 ≤ a.toNat → hostRead a s = 0#32

/-- 10_state.md R23: the stored fields of `STATUS` stand at their bits, with the codes of `REJ_CAUSE`
(60_exceptions.md R235), `ERR_CODE` (60_exceptions.md R230) and `ERR_PHASE` (10_state.md R30) as numbers. -/
def Obligations.StatusFieldsRead : Prop :=
  ∀ s : State,
    (hostRead 2#6 s).getLsbD 1 = s.status.done ∧ (hostRead 2#6 s).getLsbD 2 = s.status.err ∧
    (hostRead 2#6 s).getLsbD 3 = s.status.valid ∧ (hostRead 2#6 s).getLsbD 4 = s.status.initDone ∧
    (hostRead 2#6 s).getLsbD 5 = s.status.reject ∧ (hostRead 2#6 s).getLsbD 6 = s.status.csumErr ∧
    (hostRead 2#6 s).extractLsb' 10 2 =
      (match s.status.rejCause with | .none => 0#2 | .busy => 1#2 | .illegal => 2#2) ∧
    (hostRead 2#6 s).extractLsb' 12 4 =
      (match s.status.errCode with
        | .none => 0#4 | .transportTimeout => 1#4 | .transportError => 2#4 | .aborted => 3#4) ∧
    (hostRead 2#6 s).extractLsb' 16 3 = s.status.errCmd ∧
    (hostRead 2#6 s).extractLsb' 20 2 =
      (match s.status.errPhase with | .idle => 0#2 | .tx => 1#2 | .rx => 2#2 | .fin => 3#2) ∧
    (hostRead 2#6 s).extractLsb' 22 5 = s.status.errCount

/-- 10_state.md R37: `BUSY` and `CUR_OP` are functions of the sequencer, in every state, `CUR_OP` with the numbers
of 10_state.md R29: 0 NONE, 1 INIT, 2 MEASURE. -/
def Obligations.BusyAndCurOpHaveNoStorage : Prop :=
  ∀ s : State,
    ((hostRead (regAddr .status) s).getLsbD 0 = true ↔ s.seq.phase ≠ .idle) ∧
    (hostRead (regAddr .status) s).extractLsb' 8 2 =
      (match s.seq.op with | .none => 0#2 | .init => 1#2 | .measure => 2#2)

/-- 10_state.md R28: the value of `PARAMS` in both variants. -/
def Obligations.ParamsValue : Prop :=
  ∀ s : State,
    (s.hw.hasCsum = true → hostRead (regAddr .params) s = 0x20056114#32) ∧
    (s.hw.hasCsum = false → hostRead (regAddr .params) s = 0x20056014#32)

/-- 41_host_operations.md R170: a `CONFIG` write in any state, and the engine part of the same step already
sees the new value. -/
def Obligations.ConfigWriteTakesEffect : Prop :=
  (∀ (s : State) (d : Word),
    hostWrite (regAddr .config) d s =
      .next { s with
        cfg :=
          { irqEn := d.getLsbD 0
            csumEn := if s.hw.hasCsum then d.getLsbD 1 else false
            timeout := d.extractLsb' 16 16 } }) ∧
  (∀ (s u : State), (nextInputs s).rst = false → (nextInputs s).hsel = true →
    (nextInputs s).hwrite = true → (nextInputs s).haddr = regAddr .config →
    hostWrite (regAddr .config) (nextInputs s).hwdata (latch s) = .next u →
    step s = andThen (enginePart u) fun t => .next (driveIrq t))

/-- 10_state.md R22: what `CONFIG` reads after a write; 42_decode_and_status.md R202: without a validator bit 1
stays 0. -/
def Obligations.ConfigReadsBack : Prop :=
  ∀ (s : State) (d : Word),
    ∃ t, hostWrite (regAddr .config) d s = .next t ∧
      hostRead (regAddr .config) t =
        d &&& (if s.hw.hasCsum then 0xFFFF0003#32 else 0xFFFF0001#32)

/-- 41_host_operations.md R171: a `STATUS` write clears the W1C bits whose data bit is 1, with the records of
`ERR` and `REJECT`, and nothing else. -/
def Obligations.StatusWriteOneToClear : Prop :=
  ∀ (s : State) (d : Word),
    ∃ t, hostWrite (regAddr .status) d s = .next t ∧
      t = { s with status := t.status } ∧
      t.status.done = (if d.getLsbD 1 then false else s.status.done) ∧
      t.status.err = (if d.getLsbD 2 then false else s.status.err) ∧
      (t.status.errCode, t.status.errCmd, t.status.errPhase, t.status.errCount) =
        (if d.getLsbD 2 then (ErrCode.none, 0#3, Phase.idle, 0#5)
        else (s.status.errCode, s.status.errCmd, s.status.errPhase, s.status.errCount)) ∧
      (t.status.reject, t.status.rejCause) =
        (if d.getLsbD 5 then (false, RejCause.none) else (s.status.reject, s.status.rejCause)) ∧
      t.status.csumErr = (if d.getLsbD 6 then false else s.status.csumErr) ∧
      t.status.valid = s.status.valid ∧ t.status.initDone = s.status.initDone

/-- 41_host_operations.md R172: writes to the read-only registers have no effect. -/
def Obligations.ReadOnlyWritesHaveNoEffect : Prop :=
  ∀ (r : HostReg) (d : Word) (s : State), r ≠ .cmd → r ≠ .config → r ≠ .status →
    hostWrite (regAddr r) d s = .next s

/-! ### Host operations -/

/-- 41_host_operations.md R161: a `CMD` write of code 0x00 is NOP, and NOP changes nothing, busy or idle,
whatever the ignored bits. -/
def Obligations.NopChangesNothing : Prop :=
  ∀ (x : BitVec 24) (s : State),
    exec (.nop x) s = .next s ∧ hostWrite (regAddr .cmd) (x ++ 0x00#8) s = .next s

/-- 41_host_operations.md R167: an accepted INIT or MEASURE, field by field; every field not named is
unchanged, and the engine part of the same step is the first TX step of `PROG[o][0]`. -/
def Obligations.StartOperation : Prop :=
  ∀ (x : BitVec 24) (s : State), s.seq.phase = .idle →
    (∃ t, exec (.init x) s = .next t ∧
      t = { s with
        status := { s.status with
          done := false, err := false, csumErr := false, initDone := false
          errCode := .none, errCmd := 0#3, errPhase := .idle, errCount := 0#5 }
        seq :=
          { op := .init, step := 0#2, phase := .tx, txIdx := 0#3, rxCnt := 0#5, stallCnt := 0#16 } } ∧
      enginePart t = exec .close t) ∧
    (∃ t, exec (.measure x) s = .next t ∧
      t = { s with
        status := { s.status with
          done := false, err := false, csumErr := false
          errCode := .none, errCmd := 0#3, errPhase := .idle, errCount := 0#5 }
        seq :=
          { op := .measure, step := 0#2, phase := .tx, txIdx := 0#3, rxCnt := 0#5,
            stallCnt := 0#16 } } ∧
      enginePart t = exec .readPc t)

/-- 41_host_operations.md R166, 60_exceptions.md R235: INIT or MEASURE while busy is refused: `REJECT`, its cause,
and nothing else. -/
def Obligations.BusyRefusal : Prop :=
  ∀ (x : BitVec 24) (s : State), s.seq.phase ≠ .idle →
    exec (.init x) s =
      .next { s with status := { s.status with reject := true, rejCause := .busy } } ∧
    exec (.measure x) s =
      .next { s with status := { s.status with reject := true, rejCause := .busy } }

/-- 41_host_operations.md R165: a `CMD` write of a code that is none of the four sets `REJECT` and `REJ_CAUSE` = 2
and changes nothing else, idle or busy. -/
def Obligations.IllegalCodeRefusal : Prop :=
  ∀ (x : BitVec 24) (op : Byte) (s : State),
    op ≠ 0x00#8 → op ≠ 0x01#8 → op ≠ 0x02#8 → op ≠ 0x0F#8 →
    hostWrite (regAddr .cmd) (x ++ op) s =
      .next { s with status := { s.status with reject := true, rejCause := .illegal } }

/-- 60_exceptions.md R233: ABORT while busy raises Aborted with the current command, the phase, and the count:
`tx_idx` in TX, `rx_cnt` in RX and FIN; while idle it does nothing (41_host_operations.md R164). -/
def Obligations.AbortEndsOperation : Prop :=
  (∀ (x : BitVec 24) (s : State) (c : WireCmd), s.seq.phase ≠ .idle → curCmd s.seq = some c →
    exec (.abort x) s =
      .next { s with
        status := { s.status with
          err := true, errCode := .aborted, errCmd := cmdId c, errPhase := s.seq.phase
          errCount := if s.seq.phase = .tx then s.seq.txIdx.setWidth 5 else s.seq.rxCnt }
        seq := Sequencer.idle }) ∧
  (∀ (x : BitVec 24) (s : State), s.seq.phase = .idle → exec (.abort x) s = .next s)

/-- 60_exceptions.md R239 item 1: an ABORT written in any busy step wins over what the engine would have done in
it: the step ends idle with the error recorded, no byte offered or taken, no commit, no completion. -/
def Obligations.AbortWinsOverEngine : Prop :=
  ∀ (s : State) (x : BitVec 24), EngineInv s → s.seq.phase ≠ .idle → (nextInputs s).rst = false →
    (nextInputs s).hsel = true → (nextInputs s).hwrite = true →
    (nextInputs s).haddr = regAddr .cmd → (nextInputs s).hwdata = cmdWordOf x 0x0F#8 →
    ∃ t, step s = .next t ∧ t.seq = Sequencer.idle ∧ t.status.err = true ∧
      t.status.errCode = .aborted ∧ t.status.done = false ∧ t.status.valid = s.status.valid ∧
      t.snap = s.snap ∧ t.stg = s.stg ∧ t.buf = s.buf ∧ t.link.sent = s.link.sent ∧
      t.out.txValid = false ∧ t.out.rxPop = false

/-- 60_exceptions.md R239 item 1: a W1C clear of `DONE` in the step where the operation completes loses; so
does a clear of `CSUM_ERR` where a checked reply's sum is not 0, and a clear of `ERR` where a write fails or
a TX or RX stall reaches `TIMEOUT` (40_wire_exchanges.md R122, R124), whose code ends the step recorded. -/
def Obligations.EngineSetBeatsClear : Prop :=
  ∀ (s : State) (c : WireCmd), EngineInv s → curCmd s.seq = some c → (nextInputs s).rst = false →
    (nextInputs s).hsel = true → (nextInputs s).hwrite = true →
    (nextInputs s).haddr = regAddr .status →
    ∃ t, step s = .next t ∧
      (s.seq.phase = .fin → c = .openCmd ∨ c = .readConc → t.status.done = true) ∧
      (s.seq.phase = .fin → s.hw.hasCsum = true → s.cfg.csumEn = true →
        replySum s.buf (rlen c) ≠ 0#8 → t.status.csumErr = true) ∧
      (s.seq.phase = .tx → (nextInputs s).txErr = true →
        t.status.err = true ∧ t.status.errCode = .transportError) ∧
      (s.cfg.timeout ≠ 0#16 → s.cfg.timeout.toNat ≤ s.seq.stallCnt.toNat + 1 →
        (s.seq.phase = .tx ∧ (nextInputs s).txErr = false ∧ (nextInputs s).txReady = false) ∨
          (s.seq.phase = .rx ∧ s.link.rxq = [] ∧ (nextInputs s).arrivals = []) →
        t.status.err = true ∧ t.status.errCode = .transportTimeout)

/-- The frame of the four host operations: only `STATUS` fields and the sequencer may change. `VALID` never
changes, `DONE`, `INIT_DONE` and `CSUM_ERR` are never set, and NOP, INIT and MEASURE never set `ERR`; every
host register but `STATUS` reads as before, and the buffer, the staging registers and both streams are
unchanged (41_host_operations.md R161 to R167, 60_exceptions.md R234, R235). -/
def Obligations.HostOperationFrame : Prop :=
  ∀ (x : BitVec 24) (s t : State),
    exec (.nop x) s = .next t ∨ exec (.init x) s = .next t ∨ exec (.measure x) s = .next t ∨
      exec (.abort x) s = .next t →
    t = { s with status := t.status, seq := t.seq } ∧ t.status.valid = s.status.valid ∧
    (∀ a : BitVec 6, a ≠ regAddr .status → hostRead a t = hostRead a s) ∧
    (t.status.done = true → s.status.done = true) ∧
    (t.status.initDone = true → s.status.initDone = true) ∧
    (t.status.csumErr = true → s.status.csumErr = true) ∧
    (exec (.abort x) s ≠ .next t → t.status.err = true → s.status.err = true)

/-! ### The exchange primitive -/

/-- 40_wire_exchanges.md R122: the TX step of CLOSE, READ_SERIAL, OPEN, SET_CONT, READ_CONC and READ_PC when the
write fails (`tx_err` wins) and when the byte is accepted. Every field not named is unchanged. -/
def Obligations.TxStepMovesOneByte : Prop :=
  ∀ (c : WireCmd) (s : State) (b : Byte), s.seq.phase = .tx →
    (frame c)[s.seq.txIdx.toNat]? = some b →
    (s.pins.txErr = true →
      exec (Instr.ofCmd c) s =
        .next { s with
          out := { s.out with txValid := true, txData := b }
          status := { s.status with
            err := true, errCode := .transportError, errCmd := cmdId c, errPhase := .tx
            errCount := s.seq.txIdx.setWidth 5 }
          seq := Sequencer.idle }) ∧
    (s.pins.txErr = false → s.pins.txReady = true →
      exec (Instr.ofCmd c) s =
        .next { s with
          out := { s.out with txValid := true, txData := b }
          link := { s.link with sent := s.link.sent ++ [b] }
          seq :=
            if s.seq.txIdx.toNat + 1 = flen c then
              { s.seq with phase := .rx, txIdx := 0#3, rxCnt := 0#5, stallCnt := 0#16 }
            else { s.seq with txIdx := s.seq.txIdx + 1#3, stallCnt := 0#16 } })

/-- 40_wire_exchanges.md R123: the RX step of the six exchanges when a byte is available. Every field not named
is unchanged; of `buf` only the byte at `rx_cnt` changes. -/
def Obligations.RxStepTakesOneByte : Prop :=
  ∀ (c : WireCmd) (s : State) (b : Byte) (rest : List Byte), s.seq.phase = .rx →
    s.seq.rxCnt.toNat < rlen c → s.link.rxq = b :: rest →
    ∃ t, exec (Instr.ofCmd c) s = .next t ∧
      t = { s with
        out := { s.out with rxPop := true }
        link := { s.link with rxq := rest }
        buf := t.buf
        seq := { s.seq with
          rxCnt := s.seq.rxCnt + 1#5, stallCnt := 0#16
          phase := if s.seq.rxCnt.toNat + 1 = rlen c then .fin else .rx } } ∧
      t.buf[s.seq.rxCnt.toNat]? = some b ∧
      ∀ k : Nat, k ≠ s.seq.rxCnt.toNat → t.buf[k]? = s.buf[k]?

/-- 40_wire_exchanges.md R124: a stalled TX or RX step of the six exchanges: with `TIMEOUT` = 0 the sequencer does
not move; else the stall is counted, or it is the `TIMEOUT`-th and raises TransportTimeout. -/
def Obligations.StallCountsOrTimesOut : Prop :=
  ∀ (c : WireCmd) (s : State) (ph : Phase) (count : BitVec 5) (o : Outputs), s.seq.phase = ph →
    (ph = .tx ∧ s.pins.txErr = false ∧ s.pins.txReady = false ∧ count = s.seq.txIdx.setWidth 5 ∧
        ∃ b, (frame c)[s.seq.txIdx.toNat]? = some b ∧
          o = { s.out with txValid := true, txData := b }) ∨
      (ph = .rx ∧ s.link.rxq = [] ∧ s.seq.rxCnt.toNat < rlen c ∧ count = s.seq.rxCnt ∧
        o = s.out) →
    (s.cfg.timeout = 0#16 → exec (Instr.ofCmd c) s = .next { s with out := o }) ∧
    (s.cfg.timeout ≠ 0#16 → s.cfg.timeout.toNat ≤ s.seq.stallCnt.toNat + 1 →
      exec (Instr.ofCmd c) s =
        .next { s with
          out := o
          status := { s.status with
            err := true, errCode := .transportTimeout, errCmd := cmdId c, errPhase := ph
            errCount := count }
          seq := Sequencer.idle }) ∧
    (s.cfg.timeout ≠ 0#16 → s.seq.stallCnt.toNat + 1 < s.cfg.timeout.toNat →
      ∃ t, exec (Instr.ofCmd c) s = .next t ∧
        t = { s with out := o, seq := { s.seq with stallCnt := t.seq.stallCnt } } ∧
        t.seq.stallCnt.toNat = s.seq.stallCnt.toNat + 1)

/-- 60_exceptions.md R231: with `TIMEOUT` = T > 0, the T-th consecutive stall of a phase raises TransportTimeout
with the command, the phase and the bytes moved, and no earlier one does: T stalled steps from a state with
`stall_cnt` = 0. -/
def Obligations.TimeoutAfterExactlyTStalls : Prop :=
  ∀ (c : WireCmd) (s : State) (rest : List Inputs), EngineInv s → curCmd s.seq = some c →
    s.seq.phase = .tx ∨ (s.seq.phase = .rx ∧ s.link.rxq = []) →
    s.seq.stallCnt = 0#16 → s.cfg.timeout ≠ 0#16 →
    s.sched = stalledSteps s.cfg.timeout.toNat ++ rest →
    (∀ k : Nat, k < s.cfg.timeout.toNat → ∃ t, run k s = .next t ∧ t.status = s.status ∧
      t.seq = { s.seq with stallCnt := BitVec.ofNat 16 k }) ∧
    ∃ t, run s.cfg.timeout.toNat s = .next t ∧ t.seq = Sequencer.idle ∧ t.status.err = true ∧
      t.status.errCode = .transportTimeout ∧ t.status.errCmd = cmdId c ∧
      t.status.errPhase = s.seq.phase ∧
      t.status.errCount =
        (if s.seq.phase = .tx then s.seq.txIdx.setWidth 5 else s.seq.rxCnt) ∧
      t.snap = s.snap ∧ t.status.valid = s.status.valid ∧ t.sched = rest

/-- 70_reset_and_hazards.md R280: with `TIMEOUT` = 0 a stalled exchange waits without bound: after any number of
stalled steps the engine is busy at the same place and nothing is recorded. -/
def Obligations.UnboundedWait : Prop :=
  ∀ (c : WireCmd) (s : State) (k : Nat) (rest : List Inputs), EngineInv s → curCmd s.seq = some c →
    s.seq.phase = .tx ∨ (s.seq.phase = .rx ∧ s.link.rxq = []) →
    s.cfg.timeout = 0#16 → s.sched = stalledSteps k ++ rest →
    ∃ t, run k s = .next t ∧ t.seq = s.seq ∧ t.status = s.status ∧ t.snap = s.snap ∧
      t.buf = s.buf ∧ t.stg = s.stg ∧ t.link = s.link ∧ t.sched = rest

/-- 40_wire_exchanges.md R127 to R130, 41_host_operations.md R169: the FIN steps of CLOSE, READ_SERIAL and SET_CONT go
to the next exchange of INIT, and that of OPEN completes INIT with `DONE` and `INIT_DONE`, whatever the
reply; besides, only the optional check may set `CSUM_ERR`. -/
def Obligations.FinOfInitExchanges : Prop :=
  ∀ s : State, s.seq.phase = .fin → s.seq.op = .init →
    let after : Nat → Bool := fun n =>
      s.status.csumErr || (s.hw.hasCsum && s.cfg.csumEn && decide (replySum s.buf n ≠ 0#8))
    let next : BitVec 2 → Sequencer := fun k =>
      { op := .init, step := k, phase := .tx, txIdx := 0#3, rxCnt := 0#5, stallCnt := 0#16 }
    (s.seq.step = 0#2 →
      exec .close s =
        .next { s with status := { s.status with csumErr := after 5 }, seq := next 1#2 }) ∧
    (s.seq.step = 1#2 →
      exec .readSerial s =
        .next { s with status := { s.status with csumErr := after 14 }, seq := next 2#2 }) ∧
    (s.seq.step = 2#2 →
      exec .setCont s =
        .next { s with status := { s.status with csumErr := after 6 }, seq := next 3#2 }) ∧
    (s.seq.step = 3#2 →
      exec .openCmd s =
        .next { s with
          status := { s.status with done := true, initDone := true, csumErr := after 5 }
          seq := Sequencer.idle })

/-- 42_decode_and_status.md R192: the FIN step of READ_PC writes the three staging registers, big-endian from
offsets 3, 7 and 11, leaves the snapshot alone, and goes to READ_CONC. -/
def Obligations.FinOfReadPcStagesCounts : Prop :=
  ∀ s : State, s.seq.phase = .fin → s.seq.op = .measure → s.seq.step = 0#2 →
    exec .readPc s =
      .next { s with
        stg :=
          { c05 := s.buf[3] ++ s.buf[4] ++ s.buf[5] ++ s.buf[6]
            c25 := s.buf[7] ++ s.buf[8] ++ s.buf[9] ++ s.buf[10]
            c10 := s.buf[11] ++ s.buf[12] ++ s.buf[13] ++ s.buf[14] }
        status := { s.status with
          csumErr := s.status.csumErr ||
            (s.hw.hasCsum && s.cfg.csumEn && decide (replySum s.buf 20 ≠ 0#8)) }
        seq :=
          { op := .measure, step := 1#2, phase := .tx, txIdx := 0#3, rxCnt := 0#5,
            stallCnt := 0#16 } }

/-- 42_decode_and_status.md R193: the FIN step of READ_CONC writes all eight snapshot registers and `VALID` at once,
and completes the MEASURE with `INIT_DONE` unchanged (41_host_operations.md R169). -/
def Obligations.FinOfReadConcCommits : Prop :=
  ∀ s : State, s.seq.phase = .fin → s.seq.op = .measure → s.seq.step = 1#2 →
    exec .readConc s =
      .next { s with
        snap :=
          { count05 := s.stg.c05, count25 := s.stg.c25, count10 := s.stg.c10
            pm25 := s.buf[6] ++ s.buf[5], pm10 := s.buf[10] ++ s.buf[9]
            alarm := s.buf[15], calib := s.buf[17], workstatus := s.buf[18] }
        status := { s.status with
          valid := true, done := true
          csumErr := s.status.csumErr ||
            (s.hw.hasCsum && s.cfg.csumEn && decide (replySum s.buf 20 ≠ 0#8)) }
        seq := Sequencer.idle }

/-- 41_host_operations.md R168: after the FIN step of any exchange the sequencer is at the next exchange of the
same program, or the operation has completed; nothing in the reply decides which. -/
def Obligations.SequencerAdvancesByOne : Prop :=
  ∀ (c : WireCmd) (s : State), s.seq.phase = .fin → curCmd s.seq = some c →
    ∃ t, exec (Instr.ofCmd c) s = .next t ∧
      (s.seq.step.toNat + 1 < (prog s.seq.op).length →
        t.seq.op = s.seq.op ∧ t.seq.step.toNat = s.seq.step.toNat + 1 ∧ t.seq.phase = .tx ∧
        t.seq.txIdx = 0#3 ∧ t.seq.rxCnt = 0#5 ∧ t.seq.stallCnt = 0#16 ∧
        t.status.done = s.status.done) ∧
      ((prog s.seq.op).length ≤ s.seq.step.toNat + 1 →
        t.seq = Sequencer.idle ∧ t.status.done = true ∧
        t.status.initDone = (if s.seq.op = .init then true else s.status.initDone))

/-- 42_decode_and_status.md R201: the check, in the FIN step of any of the six exchanges: a nonzero sum sets
`CSUM_ERR`, a zero sum leaves it, and the step goes on exactly as with the check off. -/
def Obligations.ChecksumOnlySetsItsFlag : Prop :=
  ∀ (c : WireCmd) (s : State), s.seq.phase = .fin → s.hw.hasCsum = true → s.cfg.csumEn = true →
    ∃ t u, exec (Instr.ofCmd c) s = .next t ∧
      exec (Instr.ofCmd c) { s with cfg := { s.cfg with csumEn := false } } = .next u ∧
      t.status.csumErr =
        (if Frame.sum8 (s.buf.toList.take (rlen c)) ≠ 0#8 then true else s.status.csumErr) ∧
      u.status.csumErr = s.status.csumErr ∧
      t = { u with cfg := s.cfg, status := { u.status with csumErr := t.status.csumErr } }

/-- The frame of the six exchanges, in any phase: `CONFIG`, the refusal record, the inputs and the variant never
change; the snapshot and `VALID` only in the FIN step of READ_CONC; the staging registers only in that of READ_PC;
of `buf` only the byte at `rx_cnt` in RX; no exchange starts an operation (40_wire_exchanges.md R120 to R132). -/
def Obligations.ExchangeFrame : Prop :=
  ∀ (c : WireCmd) (s t : State), exec (Instr.ofCmd c) s = .next t →
    t.hw = s.hw ∧ t.cfg = s.cfg ∧ t.pins = s.pins ∧ t.sched = s.sched ∧ t.draws = s.draws ∧
    t.status.reject = s.status.reject ∧ t.status.rejCause = s.status.rejCause ∧
    t.out.hrdata = s.out.hrdata ∧
    (c ≠ .readConc ∨ s.seq.phase ≠ .fin →
      t.snap = s.snap ∧ t.status.valid = s.status.valid ∧
      ∀ a : BitVec 6, a ≠ regAddr .status → hostRead a t = hostRead a s) ∧
    (c ≠ .readPc ∨ s.seq.phase ≠ .fin → t.stg = s.stg) ∧
    (∀ k : Nat, s.seq.phase ≠ .rx ∨ k ≠ s.seq.rxCnt.toNat → t.buf[k]? = s.buf[k]?) ∧
    (s.seq.phase ≠ .tx → t.link.sent = s.link.sent) ∧
    (s.seq.phase ≠ .rx → t.link.rxq = s.link.rxq) ∧
    (t.seq.op = s.seq.op ∨ t.seq = Sequencer.idle)

/-- 60_exceptions.md R234: error entry records the error, idles the sequencer, and changes nothing else. -/
def Obligations.ErrorEntryRecordsAndIdles : Prop :=
  ∀ (code : ErrCode) (c : WireCmd) (ph : Phase) (count : BitVec 5) (s : State),
    raiseError code c ph count s =
      { s with
        status := { s.status with
          err := true, errCode := code, errCmd := cmdId c, errPhase := ph, errCount := count }
        seq :=
          { op := .none, step := 0#2, phase := .idle, txIdx := 0#3, rxCnt := 0#5,
            stallCnt := 0#16 } }

/-! ### Decoder and interpreter -/

/-- 42_decode_and_status.md R190, R191: big-endian 32-bit and little-endian 16-bit extraction as unsigned numbers, at
every offset inside the buffer. -/
def Obligations.FieldExtraction : Prop :=
  (∀ (b : Buffer) (o : Fin 17),
    (be32 b o).toNat =
      b[o.val].toNat * 2 ^ 24 + b[o.val + 1].toNat * 2 ^ 16 + b[o.val + 2].toNat * 2 ^ 8 +
        b[o.val + 3].toNat) ∧
  (∀ (b : Buffer) (o : Fin 19), (le16 b o).toNat = b[o.val].toNat + b[o.val + 1].toNat * 2 ^ 8)

/-- 42_decode_and_status.md R196, R199 (with R197, R198): `INTERP` field by field in every state: the class of the whole
`WORKSTATUS` byte, exactly 1000, above 1000, their disjunction. -/
def Obligations.InterpFields : Prop :=
  ∀ s : State,
    let v := hostRead (regAddr .interp) s
    (s.snap.workstatus.toNat = 3 → v.extractLsb' 0 2 = 1#2) ∧
    (s.snap.workstatus.toNat = 1 → v.extractLsb' 0 2 = 2#2) ∧
    (s.snap.workstatus.toNat = 128 → v.extractLsb' 0 2 = 3#2) ∧
    (s.snap.workstatus.toNat ≠ 3 → s.snap.workstatus.toNat ≠ 1 → s.snap.workstatus.toNat ≠ 128 →
      v.extractLsb' 0 2 = 0#2) ∧
    (v.getLsbD 2 = true ↔ s.snap.pm25.toNat = 1000) ∧
    (v.getLsbD 3 = true ↔ s.snap.pm10.toNat = 1000) ∧
    (v.getLsbD 4 = true ↔ 1000 < s.snap.pm25.toNat) ∧
    (v.getLsbD 5 = true ↔ 1000 < s.snap.pm10.toNat) ∧
    (v.getLsbD 6 = true ↔ s.snap.pm25.toNat = 1000 ∨ s.snap.pm10.toNat = 1000) ∧
    v.extractLsb' 7 25 = 0#25

/-- 42_decode_and_status.md R194, R195: each alarm and calibration flag is one bit of its register, as the host reads
it; bits 7:3 of `CALIB` decide no flag. -/
def Obligations.AlarmAndCalibrationBits : Prop :=
  (∀ s : State,
    [Alarm.rpmHigh, .rpmLow, .tempHigh, .tempLow, .sensHigh, .sensLow, .ildHigh, .ildLow].map
        (alarmSet s.snap.alarm) =
      (List.range 8).map (hostRead (regAddr .alarm) s).getLsbD) ∧
  (∀ s : State,
    [CalibFlag.uncalNormalT, .uncalLowT, .uncalHighT].map (calibSet s.snap.calib) =
      (List.range 3).map (hostRead (regAddr .calib) s).getLsbD) ∧
  (∀ (v w : Byte) (k : CalibFlag), v &&& 0x07#8 = w &&& 0x07#8 → calibSet v k = calibSet w k)

/-- 42_decode_and_status.md R193, 70_reset_and_hazards.md R276: in every step but a reset step, the snapshot and `VALID` stay
as they are, or the step is the FIN step of READ_CONC and commits all eight registers. -/
def Obligations.SnapshotChangesOnlyAtCommit : Prop :=
  ∀ s t : State, step s = .next t → (nextInputs s).rst = false →
    (t.snap = s.snap ∧ t.status.valid = s.status.valid) ∨
    (s.seq.phase = .fin ∧ curCmd s.seq = some .readConc ∧ t.seq = Sequencer.idle ∧
      t.status.valid = true ∧ t.status.done = true ∧
      t.snap =
        { count05 := s.stg.c05, count25 := s.stg.c25, count10 := s.stg.c10
          pm25 := le16 s.buf 5, pm10 := le16 s.buf 9
          alarm := s.buf[15], calib := s.buf[17], workstatus := s.buf[18] })

/-! ### Whole-machine statements -/

/-- The invariant holds at reset (10_state.md R38), and nothing has been sent. -/
def Obligations.InvariantAtReset : Prop :=
  EngineInv State.reset ∧ SentOk State.reset

/-- From every state of the invariant, whatever the host, the transport and the sensor do, the machine takes
a next state, which meets the invariant again: no fault and no refusal is ever reached (10_state.md R29 to R33, R37;
40_wire_exchanges.md R123; 60_exceptions.md R236). -/
def Obligations.InvariantKeptAndNeverStops : Prop :=
  ∀ s : State, EngineInv s → ∃ t, step s = .next t ∧ EngineInv t

/-- 20_memory.md R69, R74: the TX stream always ends in the frames of the running operation's program, in
order, byte for byte, up to the byte now to be offered; so all bytes of a frame go before any reply byte is
taken, and no other byte comes between. -/
def Obligations.SentStreamFollowsProgram : Prop :=
  ∀ s t : State, EngineInv s → SentOk s → step s = .next t → SentOk t

/-- 20_memory.md R77, 10_state.md R29: a running operation is never replaced by another nor started again. A step
stays in its exchange and moves no counter and no phase backwards, or goes from FIN to the first byte of
the exchange after it, or ends idle, by reset, by an error, or by completing after the last exchange. -/
def Obligations.OneOperationAtATime : Prop :=
  ∀ s t : State, EngineInv s → busy s = true → step s = .next t →
    (t.seq.op = s.seq.op ∧ t.seq.step = s.seq.step ∧
      ((t.seq.phase = s.seq.phase ∧ s.seq.txIdx.toNat ≤ t.seq.txIdx.toNat ∧
          s.seq.rxCnt.toNat ≤ t.seq.rxCnt.toNat) ∨
        (s.seq.phase = .tx ∧ t.seq.phase = .rx) ∨ (s.seq.phase = .rx ∧ t.seq.phase = .fin))) ∨
    (t.seq.op = s.seq.op ∧ t.seq.step.toNat = s.seq.step.toNat + 1 ∧ s.seq.phase = .fin ∧
      t.seq.phase = .tx ∧ t.seq.txIdx = 0#3) ∨
    (t.seq = Sequencer.idle ∧
      ((nextInputs s).rst = true ∨ t.status.err = true ∨
        (s.seq.phase = .fin ∧ s.seq.step.toNat + 1 = (prog s.seq.op).length ∧
          t.status.done = true)))

/-- 00_scope.md R5, 42_decode_and_status.md R202: no step changes the variant, and with `HAS_CSUM` = 0 `CSUM_EN` and
`CSUM_ERR` stay 0 for ever. -/
def Obligations.VariantIsFixed : Prop :=
  ∀ s t : State, EngineInv s → step s = .next t →
    t.hw = s.hw ∧
    (s.hw.hasCsum = false → t.cfg.csumEn = false ∧ t.status.csumErr = false ∧
      (hostRead (regAddr .status) t).getLsbD 6 = false ∧
      (hostRead (regAddr .config) t).getLsbD 1 = false)

/-- 10_state.md R39: the bytes of `buf` that the exchange has not written and the staging registers that the MEASURE
has not written reach no output: two states that differ only there step to two states that differ only there,
with the same outputs and the same host-visible registers. -/
def Obligations.UnwrittenBytesAreUnobservable : Prop :=
  ∀ s t : State, EngineInv s → SameButUnwritten s t →
    ∃ s' t', step s = .next s' ∧ step t = .next t' ∧ SameButUnwritten s' t' ∧
      s'.out = t'.out ∧ s'.link = t'.link ∧ ∀ a : BitVec 6, hostRead a s' = hostRead a t'

/-- 40_wire_exchanges.md R121 to R123, 70_reset_and_hazards.md R282: one exchange under the minimal schedule, from its first byte:
in `FLEN + RLEN` steps the frame has gone out in order, exactly `RLEN` bytes have been taken into `buf[0..RLEN-1]`
in arrival order, the rest of `buf` and of the queue is as it was, and the next step is the FIN step. -/
def Obligations.ExchangeRunsToFin : Prop :=
  ∀ (c : WireCmd) (s : State) (reply tail : List Byte) (rest : List Inputs),
    s.seq = seqAt (progPlace c).1 (progPlace c).2 → reply.length = rlen c →
    s.link.rxq = reply ++ tail → s.sched = readySteps (flen c + rlen c) ++ rest →
    ∃ t, run (flen c + rlen c) s = .next t ∧
      t.seq = { s.seq with phase := .fin, rxCnt := BitVec.ofNat 5 (rlen c) } ∧
      t.link = { rxq := tail, sent := s.link.sent ++ frame c } ∧
      t.buf.toList = reply ++ s.buf.toList.drop (rlen c) ∧
      t.status = s.status ∧ t.snap = s.snap ∧ t.stg = s.stg ∧ t.cfg = s.cfg ∧ t.hw = s.hw ∧
      t.sched = rest

/-- 41_host_operations.md R162, 70_reset_and_hazards.md R282: a whole INIT under the minimal schedule, from any idle state and any
replies: 56 steps, the four frames in order on the TX stream, exactly 30 reply bytes taken, then `DONE` and
`INIT_DONE`, with the snapshot and `VALID` untouched. -/
def Obligations.InitRunsToCompletion : Prop :=
  ∀ (s : State) (x : BitVec 24) (r₁ r₂ r₃ r₄ tail : List Byte) (rest : List Inputs),
    s.seq = Sequencer.idle → r₁.length = 5 → r₂.length = 14 → r₃.length = 6 → r₄.length = 5 →
    s.link.rxq = r₁ ++ r₂ ++ r₃ ++ r₄ ++ tail →
    s.sched = writeInputs (regAddr .cmd) (cmdWordOf x 0x01#8) :: readySteps 55 ++ rest →
    ∃ t, run 56 s = .next t ∧ t.seq = Sequencer.idle ∧ t.snap = s.snap ∧ t.cfg = s.cfg ∧
      t.link =
        { rxq := tail
          sent := s.link.sent ++ frame .close ++ frame .readSerial ++ frame .setCont ++
            frame .openCmd } ∧
      t.status =
        { s.status with
          done := true, err := false, initDone := true
          csumErr := csumOn s && (badSum r₁ || badSum r₂ || badSum r₃ || badSum r₄)
          errCode := .none, errCmd := 0#3, errPhase := .idle, errCount := 0#5 } ∧
      t.out.irq = s.cfg.irqEn ∧ t.sched = rest

/-- 41_host_operations.md R163, 70_reset_and_hazards.md R282: a whole MEASURE under the minimal schedule, from any idle state and any
two 20-byte replies: 51 steps, the two frames in order, the snapshot decoded from the two replies alone, then
`DONE` and `VALID`, with `INIT_DONE` untouched. -/
def Obligations.MeasureRunsToCompletion : Prop :=
  ∀ (s : State) (x : BitVec 24) (pc conc tail : List Byte) (rest : List Inputs),
    s.seq = Sequencer.idle → pc.length = 20 → conc.length = 20 →
    s.link.rxq = pc ++ conc ++ tail →
    s.sched = writeInputs (regAddr .cmd) (cmdWordOf x 0x02#8) :: readySteps 50 ++ rest →
    ∃ t, run 51 s = .next t ∧ t.seq = Sequencer.idle ∧ t.snap = snapshotOf pc conc ∧
      t.cfg = s.cfg ∧
      t.link = { rxq := tail, sent := s.link.sent ++ frame .readPc ++ frame .readConc } ∧
      t.status =
        { s.status with
          done := true, err := false, valid := true
          csumErr := csumOn s && (badSum pc || badSum conc)
          errCode := .none, errCmd := 0#3, errPhase := .idle, errCount := 0#5 } ∧
      t.out.irq = s.cfg.irqEn ∧ t.sched = rest

/-- 41_host_operations.md R174: two MEASUREs with identical replies leave identical snapshots, whatever the two states they
start from held in the snapshot, the buffer, the staging registers, `STATUS` and `CONFIG`. -/
def Obligations.MeasureIsIdempotent : Prop :=
  ∀ (s s' : State) (x : BitVec 24) (pc conc tail tail' : List Byte) (rest rest' : List Inputs),
    s.seq = Sequencer.idle → s'.seq = Sequencer.idle → pc.length = 20 → conc.length = 20 →
    s.link.rxq = pc ++ conc ++ tail → s'.link.rxq = pc ++ conc ++ tail' →
    s.sched = writeInputs (regAddr .cmd) (cmdWordOf x 0x02#8) :: readySteps 50 ++ rest →
    s'.sched = writeInputs (regAddr .cmd) (cmdWordOf x 0x02#8) :: readySteps 50 ++ rest' →
    ∃ t t', run 51 s = .next t ∧ run 51 s' = .next t' ∧ t.snap = t'.snap

/-- 60_exceptions.md R236: a state that an error left is idle with the error recorded, and it accepts the next MEASURE
or INIT at once: the start clears the record without the host clearing `ERR` first. -/
def Obligations.ErrorThenNextOperation : Prop :=
  ∀ (code : ErrCode) (c : WireCmd) (ph : Phase) (count : BitVec 5) (s : State) (x : BitVec 24)
    (o : Op), o ≠ .none →
    ∃ t, exec (if o = .init then .init x else .measure x) (raiseError code c ph count s) =
        .next t ∧
      t.seq.op = o ∧ t.seq.phase = .tx ∧ t.status.err = false ∧ t.status.errCode = .none ∧
      t.snap = s.snap ∧ t.status.valid = s.status.valid
end

