-- ==== Sys2Proof/Laws/Decode.lean ====
section
/-! SUPPORT. Joined fields as numbers, the field splits of a CMD word, and what the decoder answers on each frame. -/

namespace Sys2Proof

/-- Two joined fields as a number: the upper one counts in units of the lower one's range. -/
theorem toNat_append_eq {m n : Nat} (x : BitVec m) (y : BitVec n) :
    (x ++ y).toNat = x.toNat * 2 ^ n + y.toNat := by
  rw [BitVec.toNat_append, ← Nat.shiftLeft_add_eq_or_of_lt y.isLt, Nat.shiftLeft_eq]

/-- The operation code of a word built from its two fields. -/
@[simp] theorem opcodeOf_append (x : BitVec 24) (op : Byte) : opcodeOf (x ++ op) = op := by
  apply BitVec.eq_of_toNat_eq
  rw [opcodeOf, BitVec.extractLsb'_toNat, toNat_append_eq]
  omega

/-- The ignored bits of a word built from its two fields. -/
@[simp] theorem ignoredOf_append (x : BitVec 24) (op : Byte) : ignoredOf (x ++ op) = x := by
  apply BitVec.eq_of_toNat_eq
  rw [ignoredOf, BitVec.extractLsb'_toNat, toNat_append_eq, Nat.shiftRight_eq_div_pow]
  omega

/-- A word is its two fields joined: no bit is dropped. -/
theorem ignoredOf_append_opcodeOf (w : Word) : (ignoredOf w ++ opcodeOf w : Word) = w := by
  apply BitVec.eq_of_toNat_eq
  rw [toNat_append_eq, opcodeOf, ignoredOf, BitVec.extractLsb'_toNat, BitVec.extractLsb'_toNat,
    Nat.shiftRight_eq_div_pow]
  omega

/-- Each frame of the table decodes to its own exchange. -/
@[simp] theorem decodeFrame_frame (c : WireCmd) :
    decodeFrame (frame c) = .instr (Instr.ofCmd c) := by
  cases c <;> decide

@[simp] theorem cmd?_ofCmd (c : WireCmd) : (Instr.ofCmd c).cmd? = some c := by cases c <;> rfl

end Sys2Proof
end

