-- ==== Sys2Proof/Laws/State.lean ====
section
/-! SUPPORT. What each unconditional operation leaves in each field of State: one lemma per field per operation, true by rfl, so that no later proof unfolds a record update. -/

namespace Sys2Proof.Machine

variable (s : State)

/-! ### The sequencer positions the operations write -/

@[simp] theorem idle_op : Sequencer.idle.op = .none := rfl
@[simp] theorem idle_step : Sequencer.idle.step = 0#2 := rfl
@[simp] theorem idle_phase : Sequencer.idle.phase = .idle := rfl
@[simp] theorem idle_txIdx : Sequencer.idle.txIdx = 0#3 := rfl
@[simp] theorem idle_rxCnt : Sequencer.idle.rxCnt = 0#5 := rfl
@[simp] theorem idle_stallCnt : Sequencer.idle.stallCnt = 0#16 := rfl

@[simp] theorem seqAt_op (o : Op) (k : BitVec 2) : (seqAt o k).op = o := rfl
@[simp] theorem seqAt_step (o : Op) (k : BitVec 2) : (seqAt o k).step = k := rfl
@[simp] theorem seqAt_phase (o : Op) (k : BitVec 2) : (seqAt o k).phase = .tx := rfl
@[simp] theorem seqAt_txIdx (o : Op) (k : BitVec 2) : (seqAt o k).txIdx = 0#3 := rfl
@[simp] theorem seqAt_rxCnt (o : Op) (k : BitVec 2) : (seqAt o k).rxCnt = 0#5 := rfl
@[simp] theorem seqAt_stallCnt (o : Op) (k : BitVec 2) : (seqAt o k).stallCnt = 0#16 := rfl

@[simp] theorem exchStart_op (q : Sequencer) : (exchStart q).op = q.op := rfl
@[simp] theorem exchStart_step (q : Sequencer) : (exchStart q).step = q.step := rfl
@[simp] theorem exchStart_phase (q : Sequencer) : (exchStart q).phase = .tx := rfl
@[simp] theorem exchStart_txIdx (q : Sequencer) : (exchStart q).txIdx = 0#3 := rfl
@[simp] theorem exchStart_rxCnt (q : Sequencer) : (exchStart q).rxCnt = 0#5 := rfl
@[simp] theorem exchStart_stallCnt (q : Sequencer) : (exchStart q).stallCnt = 0#16 := rfl

/-! ### Outputs of a step in which nothing happens -/

@[simp] theorem quiet_txValid : Outputs.quiet.txValid = false := rfl
@[simp] theorem quiet_txData : Outputs.quiet.txData = 0x00#8 := rfl
@[simp] theorem quiet_rxPop : Outputs.quiet.rxPop = false := rfl
@[simp] theorem quiet_irq : Outputs.quiet.irq = false := rfl
@[simp] theorem quiet_hrdata : Outputs.quiet.hrdata = none := rfl

/-! ### latch -/

@[simp] theorem latch_hw : (latch s).hw = s.hw := rfl
@[simp] theorem latch_cfg : (latch s).cfg = s.cfg := rfl
@[simp] theorem latch_status : (latch s).status = s.status := rfl
@[simp] theorem latch_snap : (latch s).snap = s.snap := rfl
@[simp] theorem latch_seq : (latch s).seq = s.seq := rfl
@[simp] theorem latch_buf : (latch s).buf = s.buf := rfl
@[simp] theorem latch_stg : (latch s).stg = s.stg := rfl
@[simp] theorem latch_link :
    (latch s).link = { s.link with rxq := s.link.rxq ++ (nextInputs s).arrivals } := rfl
@[simp] theorem latch_pins :
    (latch s).pins = nextInputs s := rfl
@[simp] theorem latch_sched :
    (latch s).sched = s.sched.tail := rfl
@[simp] theorem latch_out :
    (latch s).out = Outputs.quiet := rfl

/-! ### raiseError -/

@[simp] theorem raiseError_hw (code : ErrCode) (c : WireCmd) (ph : Phase) (n : BitVec 5) : (raiseError code c ph n s).hw = s.hw := rfl
@[simp] theorem raiseError_cfg (code : ErrCode) (c : WireCmd) (ph : Phase) (n : BitVec 5) : (raiseError code c ph n s).cfg = s.cfg := rfl
@[simp] theorem raiseError_status (code : ErrCode) (c : WireCmd) (ph : Phase) (n : BitVec 5) :
    (raiseError code c ph n s).status = { s.status with
      err := true, errCode := code, errCmd := cmdId c, errPhase := ph, errCount := n } := rfl
@[simp] theorem raiseError_snap (code : ErrCode) (c : WireCmd) (ph : Phase) (n : BitVec 5) : (raiseError code c ph n s).snap = s.snap := rfl
@[simp] theorem raiseError_seq (code : ErrCode) (c : WireCmd) (ph : Phase) (n : BitVec 5) :
    (raiseError code c ph n s).seq = Sequencer.idle := rfl
@[simp] theorem raiseError_buf (code : ErrCode) (c : WireCmd) (ph : Phase) (n : BitVec 5) : (raiseError code c ph n s).buf = s.buf := rfl
@[simp] theorem raiseError_stg (code : ErrCode) (c : WireCmd) (ph : Phase) (n : BitVec 5) : (raiseError code c ph n s).stg = s.stg := rfl
@[simp] theorem raiseError_link (code : ErrCode) (c : WireCmd) (ph : Phase) (n : BitVec 5) : (raiseError code c ph n s).link = s.link := rfl
@[simp] theorem raiseError_pins (code : ErrCode) (c : WireCmd) (ph : Phase) (n : BitVec 5) : (raiseError code c ph n s).pins = s.pins := rfl
@[simp] theorem raiseError_sched (code : ErrCode) (c : WireCmd) (ph : Phase) (n : BitVec 5) : (raiseError code c ph n s).sched = s.sched := rfl
@[simp] theorem raiseError_draws (code : ErrCode) (c : WireCmd) (ph : Phase) (n : BitVec 5) : (raiseError code c ph n s).draws = s.draws := rfl
@[simp] theorem raiseError_out (code : ErrCode) (c : WireCmd) (ph : Phase) (n : BitVec 5) : (raiseError code c ph n s).out = s.out := rfl

/-! ### rejectCmd -/

@[simp] theorem rejectCmd_hw (cause : RejCause) : (rejectCmd cause s).hw = s.hw := rfl
@[simp] theorem rejectCmd_cfg (cause : RejCause) : (rejectCmd cause s).cfg = s.cfg := rfl
@[simp] theorem rejectCmd_status (cause : RejCause) :
    (rejectCmd cause s).status = { s.status with reject := true, rejCause := cause } := rfl
@[simp] theorem rejectCmd_snap (cause : RejCause) : (rejectCmd cause s).snap = s.snap := rfl
@[simp] theorem rejectCmd_seq (cause : RejCause) : (rejectCmd cause s).seq = s.seq := rfl
@[simp] theorem rejectCmd_buf (cause : RejCause) : (rejectCmd cause s).buf = s.buf := rfl
@[simp] theorem rejectCmd_stg (cause : RejCause) : (rejectCmd cause s).stg = s.stg := rfl
@[simp] theorem rejectCmd_link (cause : RejCause) : (rejectCmd cause s).link = s.link := rfl
@[simp] theorem rejectCmd_pins (cause : RejCause) : (rejectCmd cause s).pins = s.pins := rfl
@[simp] theorem rejectCmd_sched (cause : RejCause) : (rejectCmd cause s).sched = s.sched := rfl
@[simp] theorem rejectCmd_draws (cause : RejCause) : (rejectCmd cause s).draws = s.draws := rfl
@[simp] theorem rejectCmd_out (cause : RejCause) : (rejectCmd cause s).out = s.out := rfl

/-! ### startOp -/

@[simp] theorem startOp_hw (o : Op) : (startOp o s).hw = s.hw := rfl
@[simp] theorem startOp_cfg (o : Op) : (startOp o s).cfg = s.cfg := rfl
@[simp] theorem startOp_snap (o : Op) : (startOp o s).snap = s.snap := rfl
@[simp] theorem startOp_seq (o : Op) :
    (startOp o s).seq = seqAt o 0#2 := rfl
@[simp] theorem startOp_buf (o : Op) : (startOp o s).buf = s.buf := rfl
@[simp] theorem startOp_stg (o : Op) : (startOp o s).stg = s.stg := rfl
@[simp] theorem startOp_link (o : Op) : (startOp o s).link = s.link := rfl
@[simp] theorem startOp_pins (o : Op) : (startOp o s).pins = s.pins := rfl
@[simp] theorem startOp_sched (o : Op) : (startOp o s).sched = s.sched := rfl
@[simp] theorem startOp_draws (o : Op) : (startOp o s).draws = s.draws := rfl
@[simp] theorem startOp_out (o : Op) : (startOp o s).out = s.out := rfl

/-! ### opComplete -/

@[simp] theorem opComplete_hw : (opComplete s).hw = s.hw := rfl
@[simp] theorem opComplete_cfg : (opComplete s).cfg = s.cfg := rfl
@[simp] theorem opComplete_snap : (opComplete s).snap = s.snap := rfl
@[simp] theorem opComplete_seq :
    (opComplete s).seq = Sequencer.idle := rfl
@[simp] theorem opComplete_buf : (opComplete s).buf = s.buf := rfl
@[simp] theorem opComplete_stg : (opComplete s).stg = s.stg := rfl
@[simp] theorem opComplete_link : (opComplete s).link = s.link := rfl
@[simp] theorem opComplete_pins : (opComplete s).pins = s.pins := rfl
@[simp] theorem opComplete_sched : (opComplete s).sched = s.sched := rfl
@[simp] theorem opComplete_draws : (opComplete s).draws = s.draws := rfl
@[simp] theorem opComplete_out : (opComplete s).out = s.out := rfl

/-! ### txOffer -/

@[simp] theorem txOffer_hw (b : Byte) : (txOffer b s).hw = s.hw := rfl
@[simp] theorem txOffer_cfg (b : Byte) : (txOffer b s).cfg = s.cfg := rfl
@[simp] theorem txOffer_status (b : Byte) : (txOffer b s).status = s.status := rfl
@[simp] theorem txOffer_snap (b : Byte) : (txOffer b s).snap = s.snap := rfl
@[simp] theorem txOffer_seq (b : Byte) : (txOffer b s).seq = s.seq := rfl
@[simp] theorem txOffer_buf (b : Byte) : (txOffer b s).buf = s.buf := rfl
@[simp] theorem txOffer_stg (b : Byte) : (txOffer b s).stg = s.stg := rfl
@[simp] theorem txOffer_link (b : Byte) : (txOffer b s).link = s.link := rfl
@[simp] theorem txOffer_pins (b : Byte) : (txOffer b s).pins = s.pins := rfl
@[simp] theorem txOffer_sched (b : Byte) : (txOffer b s).sched = s.sched := rfl
@[simp] theorem txOffer_draws (b : Byte) : (txOffer b s).draws = s.draws := rfl
@[simp] theorem txOffer_out (b : Byte) :
    (txOffer b s).out = { s.out with txValid := true, txData := b } := rfl

/-! ### txAccept -/

@[simp] theorem txAccept_hw (c : WireCmd) (b : Byte) : (txAccept c b s).hw = s.hw := rfl
@[simp] theorem txAccept_cfg (c : WireCmd) (b : Byte) : (txAccept c b s).cfg = s.cfg := rfl
@[simp] theorem txAccept_status (c : WireCmd) (b : Byte) : (txAccept c b s).status = s.status := rfl
@[simp] theorem txAccept_snap (c : WireCmd) (b : Byte) : (txAccept c b s).snap = s.snap := rfl
@[simp] theorem txAccept_buf (c : WireCmd) (b : Byte) : (txAccept c b s).buf = s.buf := rfl
@[simp] theorem txAccept_stg (c : WireCmd) (b : Byte) : (txAccept c b s).stg = s.stg := rfl
@[simp] theorem txAccept_pins (c : WireCmd) (b : Byte) : (txAccept c b s).pins = s.pins := rfl
@[simp] theorem txAccept_sched (c : WireCmd) (b : Byte) : (txAccept c b s).sched = s.sched := rfl
@[simp] theorem txAccept_draws (c : WireCmd) (b : Byte) : (txAccept c b s).draws = s.draws := rfl
@[simp] theorem txAccept_out (c : WireCmd) (b : Byte) : (txAccept c b s).out = s.out := rfl

/-! ### rxTake -/

@[simp] theorem rxTake_hw (c : WireCmd) (b : Byte) (rest : List Byte) : (rxTake c b rest s).hw = s.hw := rfl
@[simp] theorem rxTake_cfg (c : WireCmd) (b : Byte) (rest : List Byte) : (rxTake c b rest s).cfg = s.cfg := rfl
@[simp] theorem rxTake_status (c : WireCmd) (b : Byte) (rest : List Byte) : (rxTake c b rest s).status = s.status := rfl
@[simp] theorem rxTake_snap (c : WireCmd) (b : Byte) (rest : List Byte) : (rxTake c b rest s).snap = s.snap := rfl
@[simp] theorem rxTake_stg (c : WireCmd) (b : Byte) (rest : List Byte) : (rxTake c b rest s).stg = s.stg := rfl
@[simp] theorem rxTake_pins (c : WireCmd) (b : Byte) (rest : List Byte) : (rxTake c b rest s).pins = s.pins := rfl
@[simp] theorem rxTake_sched (c : WireCmd) (b : Byte) (rest : List Byte) : (rxTake c b rest s).sched = s.sched := rfl
@[simp] theorem rxTake_draws (c : WireCmd) (b : Byte) (rest : List Byte) : (rxTake c b rest s).draws = s.draws := rfl

/-! ### decodePC -/

@[simp] theorem decodePC_hw : (decodePC s).hw = s.hw := rfl
@[simp] theorem decodePC_cfg : (decodePC s).cfg = s.cfg := rfl
@[simp] theorem decodePC_status : (decodePC s).status = s.status := rfl
@[simp] theorem decodePC_snap : (decodePC s).snap = s.snap := rfl
@[simp] theorem decodePC_seq : (decodePC s).seq = s.seq := rfl
@[simp] theorem decodePC_buf : (decodePC s).buf = s.buf := rfl
@[simp] theorem decodePC_link : (decodePC s).link = s.link := rfl
@[simp] theorem decodePC_pins : (decodePC s).pins = s.pins := rfl
@[simp] theorem decodePC_sched : (decodePC s).sched = s.sched := rfl
@[simp] theorem decodePC_draws : (decodePC s).draws = s.draws := rfl
@[simp] theorem decodePC_out : (decodePC s).out = s.out := rfl

/-! ### decodeConcAndCommit -/

@[simp] theorem decodeConcAndCommit_hw : (decodeConcAndCommit s).hw = s.hw := rfl
@[simp] theorem decodeConcAndCommit_cfg : (decodeConcAndCommit s).cfg = s.cfg := rfl
@[simp] theorem decodeConcAndCommit_status :
    (decodeConcAndCommit s).status = { s.status with valid := true } := rfl
@[simp] theorem decodeConcAndCommit_seq : (decodeConcAndCommit s).seq = s.seq := rfl
@[simp] theorem decodeConcAndCommit_buf : (decodeConcAndCommit s).buf = s.buf := rfl
@[simp] theorem decodeConcAndCommit_stg : (decodeConcAndCommit s).stg = s.stg := rfl
@[simp] theorem decodeConcAndCommit_link : (decodeConcAndCommit s).link = s.link := rfl
@[simp] theorem decodeConcAndCommit_pins : (decodeConcAndCommit s).pins = s.pins := rfl
@[simp] theorem decodeConcAndCommit_sched : (decodeConcAndCommit s).sched = s.sched := rfl
@[simp] theorem decodeConcAndCommit_draws : (decodeConcAndCommit s).draws = s.draws := rfl
@[simp] theorem decodeConcAndCommit_out : (decodeConcAndCommit s).out = s.out := rfl

/-! ### configWrite -/

@[simp] theorem configWrite_hw (d : Word) : (configWrite d s).hw = s.hw := rfl
@[simp] theorem configWrite_status (d : Word) : (configWrite d s).status = s.status := rfl
@[simp] theorem configWrite_snap (d : Word) : (configWrite d s).snap = s.snap := rfl
@[simp] theorem configWrite_seq (d : Word) : (configWrite d s).seq = s.seq := rfl
@[simp] theorem configWrite_buf (d : Word) : (configWrite d s).buf = s.buf := rfl
@[simp] theorem configWrite_stg (d : Word) : (configWrite d s).stg = s.stg := rfl
@[simp] theorem configWrite_link (d : Word) : (configWrite d s).link = s.link := rfl
@[simp] theorem configWrite_pins (d : Word) : (configWrite d s).pins = s.pins := rfl
@[simp] theorem configWrite_sched (d : Word) : (configWrite d s).sched = s.sched := rfl
@[simp] theorem configWrite_draws (d : Word) : (configWrite d s).draws = s.draws := rfl
@[simp] theorem configWrite_out (d : Word) : (configWrite d s).out = s.out := rfl

/-! ### statusWrite -/

@[simp] theorem statusWrite_hw (d : Word) : (statusWrite d s).hw = s.hw := rfl
@[simp] theorem statusWrite_cfg (d : Word) : (statusWrite d s).cfg = s.cfg := rfl
@[simp] theorem statusWrite_snap (d : Word) : (statusWrite d s).snap = s.snap := rfl
@[simp] theorem statusWrite_seq (d : Word) : (statusWrite d s).seq = s.seq := rfl
@[simp] theorem statusWrite_buf (d : Word) : (statusWrite d s).buf = s.buf := rfl
@[simp] theorem statusWrite_stg (d : Word) : (statusWrite d s).stg = s.stg := rfl
@[simp] theorem statusWrite_link (d : Word) : (statusWrite d s).link = s.link := rfl
@[simp] theorem statusWrite_pins (d : Word) : (statusWrite d s).pins = s.pins := rfl
@[simp] theorem statusWrite_sched (d : Word) : (statusWrite d s).sched = s.sched := rfl
@[simp] theorem statusWrite_draws (d : Word) : (statusWrite d s).draws = s.draws := rfl
@[simp] theorem statusWrite_out (d : Word) : (statusWrite d s).out = s.out := rfl

/-! ### driveIrq -/

@[simp] theorem driveIrq_hw : (driveIrq s).hw = s.hw := rfl
@[simp] theorem driveIrq_cfg : (driveIrq s).cfg = s.cfg := rfl
@[simp] theorem driveIrq_status : (driveIrq s).status = s.status := rfl
@[simp] theorem driveIrq_snap : (driveIrq s).snap = s.snap := rfl
@[simp] theorem driveIrq_seq : (driveIrq s).seq = s.seq := rfl
@[simp] theorem driveIrq_buf : (driveIrq s).buf = s.buf := rfl
@[simp] theorem driveIrq_stg : (driveIrq s).stg = s.stg := rfl
@[simp] theorem driveIrq_link : (driveIrq s).link = s.link := rfl
@[simp] theorem driveIrq_pins : (driveIrq s).pins = s.pins := rfl
@[simp] theorem driveIrq_sched : (driveIrq s).sched = s.sched := rfl
@[simp] theorem driveIrq_draws : (driveIrq s).draws = s.draws := rfl
@[simp] theorem driveIrq_out :
    (driveIrq s).out = { s.out with irq := irq s } := rfl

/-! ### resetCycle -/

@[simp] theorem resetCycle_hw : (resetCycle s).hw = s.hw := rfl
@[simp] theorem resetCycle_cfg :
    (resetCycle s).cfg = { irqEn := false, csumEn := false, timeout := 0#16 } := rfl
@[simp] theorem resetCycle_status :
    (resetCycle s).status = StatusReg.reset := rfl
@[simp] theorem resetCycle_snap :
    (resetCycle s).snap = Snapshot.reset := rfl
@[simp] theorem resetCycle_seq :
    (resetCycle s).seq = Sequencer.idle := rfl
@[simp] theorem resetCycle_link : (resetCycle s).link = s.link := rfl
@[simp] theorem resetCycle_pins : (resetCycle s).pins = s.pins := rfl
@[simp] theorem resetCycle_sched : (resetCycle s).sched = s.sched := rfl
@[simp] theorem resetCycle_draws : (resetCycle s).draws = s.draws := rfl

end Sys2Proof.Machine
end

