-- ==== Sys2Proof/Laws/Ops.lean ====
section
/-! SUPPORT. One specification lemma per shared operation: everything it can do, said once, for later proofs to cite. -/

namespace Sys2Proof.Machine

/-! ### Tables -/

@[simp] theorem frame_length (c : WireCmd) : (frame c).length = flen c := by cases c <;> rfl

theorem flen_pos (c : WireCmd) : 0 < flen c := by cases c <;> decide

theorem flen_le (c : WireCmd) : flen c ≤ 6 := by cases c <;> decide

theorem rlen_pos (c : WireCmd) : 0 < rlen c := by cases c <;> decide

theorem rlen_le (c : WireCmd) : rlen c ≤ 20 := by cases c <;> decide

/-- A frame byte exists exactly at the indices below the frame's length. -/
theorem frame_getElem?_of_lt {c : WireCmd} {k : Nat} (h : k < flen c) :
    ∃ b, (frame c)[k]? = some b :=
  ⟨(frame c)[k]'(by simpa using h), List.getElem?_eq_getElem _⟩

theorem lt_of_frame_getElem? {c : WireCmd} {k : Nat} {b : Byte} (h : (frame c)[k]? = some b) :
    k < flen c := by
  simpa using (List.getElem?_eq_some_iff.mp h).1

/-! ### Sequencer positions -/

/-- Each wire command stands at exactly one place of the programs. -/
theorem prog_getElem?_iff : ∀ (o : Op) (k : Fin 4) (c : WireCmd),
    (prog o)[k.val]? = some c ↔ o = (progPlace c).1 ∧ k.val = (progPlace c).2.toNat := by
  intro o k c
  revert k
  cases o <;> cases c <;> decide

/-- The current command fixes the operation and the step, and they fix it. -/
theorem curCmd_eq_some_iff {q : Sequencer} {c : WireCmd} :
    curCmd q = some c ↔ q.op = (progPlace c).1 ∧ q.step = (progPlace c).2 := by
  rw [← BitVec.toNat_inj]
  exact prog_getElem?_iff q.op ⟨q.step.toNat, q.step.isLt⟩ c

@[simp] theorem curCmd_seqAt (c : WireCmd) :
    curCmd (seqAt (progPlace c).1 (progPlace c).2) = some c := by
  cases c <;> rfl

@[simp] theorem curCmd_idle : curCmd Sequencer.idle = none := rfl

/-- The command depends on the operation and the step alone. -/
theorem curCmd_congr {q r : Sequencer} (ho : q.op = r.op) (hs : q.step = r.step) :
    curCmd q = curCmd r := by
  simp [curCmd, ho, hs]

/-- A position of the rules is idle, or at a wire command in one of the three phases. -/
theorem seqOk_cases {q : Sequencer} (h : seqOk q = true) :
    q = Sequencer.idle ∨
    ∃ c, curCmd q = some c ∧ q.stallCnt.toNat ≤ 65534 ∧
      ((q.phase = .tx ∧ q.txIdx.toNat < flen c ∧ q.rxCnt = 0#5) ∨
        (q.phase = .rx ∧ q.txIdx = 0#3 ∧ q.rxCnt.toNat < rlen c) ∨
        (q.phase = .fin ∧ q.txIdx = 0#3 ∧ q.rxCnt.toNat = rlen c ∧ q.stallCnt = 0#16)) := by
  unfold seqOk at h
  split at h
  · exact .inl (by simpa using h)
  · next c hc =>
    refine .inr ⟨c, hc, ?_⟩
    cases hp : q.phase <;> simp_all [and_assoc]

/-- An exchange in range is a position of the rules. -/
theorem seqOk_of {q : Sequencer} {c : WireCmd} (hc : curCmd q = some c)
    (hs : q.stallCnt.toNat ≤ 65534)
    (h : (q.phase = .tx ∧ q.txIdx.toNat < flen c ∧ q.rxCnt = 0#5) ∨
        (q.phase = .rx ∧ q.txIdx = 0#3 ∧ q.rxCnt.toNat < rlen c) ∨
        (q.phase = .fin ∧ q.txIdx = 0#3 ∧ q.rxCnt.toNat = rlen c ∧ q.stallCnt = 0#16)) :
    seqOk q = true := by
  unfold seqOk
  rcases h with ⟨hp, h1, h2⟩ | ⟨hp, h1, h2⟩ | ⟨hp, h1, h2, h3⟩ <;> simp_all

@[simp] theorem seqOk_idle : seqOk Sequencer.idle = true := by decide

@[simp] theorem seqOk_seqAt (c : WireCmd) :
    seqOk (seqAt (progPlace c).1 (progPlace c).2) = true := by
  cases c <;> decide

/-- A running operation is at a wire command. -/
theorem curCmd_of_busy {s : State} (h : seqOk s.seq = true) (hb : s.seq.phase ≠ .idle) :
    ∃ c, curCmd s.seq = some c := by
  rcases seqOk_cases h with h | ⟨c, hc, -⟩
  · simp [h, Sequencer.idle] at hb
  · exact ⟨c, hc⟩

theorem idle_of_phase {q : Sequencer} (h : seqOk q = true) (hp : q.phase = .idle) :
    q = Sequencer.idle := by
  rcases seqOk_cases h with h | ⟨c, -, -, h | h | h⟩
  · exact h
  all_goals simp [hp] at h

theorem busy_iff {s : State} : busy s = true ↔ s.seq.phase ≠ .idle := by
  simp [busy]

/-! ### Outcomes in sequence -/

@[simp] theorem andThen_next (s : State) (f : State → Host.Outcome State Fault Refusal) :
    andThen (.next s) f = f s := rfl

@[simp] theorem andThen_fault (r : Fault) (f : State → Host.Outcome State Fault Refusal) :
    andThen (.fault r) f = .fault r := rfl

@[simp] theorem andThen_refused (r : Refusal) (f : State → Host.Outcome State Fault Refusal) :
    andThen (.refused r) f = .refused r := rfl

theorem andThen_eq_next {o : Host.Outcome State Fault Refusal}
    {f : State → Host.Outcome State Fault Refusal} {t : State} :
    andThen o f = .next t ↔ ∃ u, o = .next u ∧ f u = .next t := by
  cases o <;> simp [andThen]

/-! ### The exchange primitive -/

/-- A stall changes nothing, counts, or times out (40_wire_exchanges.md R124). -/
theorem stall_cases (c : WireCmd) (ph : Phase) (n : BitVec 5) (s : State) :
    (s.cfg.timeout.toNat = 0 ∧ stall c ph n s = s) ∨
    (s.cfg.timeout.toNat ≠ 0 ∧ s.cfg.timeout.toNat ≤ s.seq.stallCnt.toNat + 1 ∧
      stall c ph n s = raiseError .transportTimeout c ph n s) ∨
    (s.seq.stallCnt.toNat + 1 < s.cfg.timeout.toNat ∧
      stall c ph n s = { s with seq := { s.seq with stallCnt := s.seq.stallCnt + 1#16 } }) := by
  unfold stall
  split
  · split
    · exact .inr (.inl ⟨‹_›, ‹_›, rfl⟩)
    · exact .inr (.inr ⟨by omega, rfl⟩)
  · exact .inl ⟨by omega, rfl⟩

/-- A TX step in range fails, moves its byte, or stalls (40_wire_exchanges.md R122). -/
theorem txStep_cases {c : WireCmd} {s : State} (h : s.seq.txIdx.toNat < flen c) :
    ∃ b, (frame c)[s.seq.txIdx.toNat]? = some b ∧
      ((s.pins.txErr = true ∧
          txStep c s = .next (raiseError .transportError c .tx (s.seq.txIdx.setWidth 5)
            (txOffer b s))) ∨
        (s.pins.txErr = false ∧ s.pins.txReady = true ∧
          txStep c s = .next (txAccept c b (txOffer b s))) ∨
        (s.pins.txErr = false ∧ s.pins.txReady = false ∧
          txStep c s = .next (stall c .tx (s.seq.txIdx.setWidth 5) (txOffer b s)))) := by
  obtain ⟨b, hb⟩ := frame_getElem?_of_lt h
  refine ⟨b, hb, ?_⟩
  simp only [txStep, hb]
  cases s.pins.txErr <;> cases s.pins.txReady <;> simp

/-- A TX step that answers a next state is in range. -/
theorem txIdx_lt_of_txStep {c : WireCmd} {s t : State} (h : txStep c s = .next t) :
    s.seq.txIdx.toNat < flen c := by
  unfold txStep at h
  split at h
  · cases h
  · next b hb => exact lt_of_frame_getElem? hb

/-- An RX step in range takes the oldest byte, or stalls (40_wire_exchanges.md R123). -/
theorem rxStep_cases {c : WireCmd} {s : State} (h : s.seq.rxCnt.toNat < rlen c) :
    (∃ b rest, s.link.rxq = b :: rest ∧ rxStep c s = .next (rxTake c b rest s)) ∨
    (s.link.rxq = [] ∧ rxStep c s = .next (stall c .rx s.seq.rxCnt s)) := by
  unfold rxStep
  rw [if_pos h]
  cases hq : s.link.rxq with
  | nil => exact .inr ⟨rfl, rfl⟩
  | cons b rest => exact .inl ⟨b, rest, rfl, rfl⟩

/-- An RX step that answers a next state is in range. -/
theorem rxCnt_lt_of_rxStep {c : WireCmd} {s t : State} (h : rxStep c s = .next t) :
    s.seq.rxCnt.toNat < rlen c := by
  unfold rxStep at h
  split at h
  · assumption
  · cases h

/-- After the last byte of the frame the sequencer is at the first byte of the reply. -/
theorem txAccept_seq_last {c : WireCmd} {b : Byte} {s : State}
    (h : s.seq.txIdx.toNat + 1 = flen c) :
    (txAccept c b s).seq =
      { s.seq with phase := .rx, txIdx := 0#3, rxCnt := 0#5, stallCnt := 0#16 } := by
  simp [txAccept, h]

/-- Before it, at the next byte of the frame. -/
theorem txAccept_seq_more {c : WireCmd} {b : Byte} {s : State}
    (h : s.seq.txIdx.toNat + 1 ≠ flen c) :
    (txAccept c b s).seq = { s.seq with txIdx := s.seq.txIdx + 1#3, stallCnt := 0#16 } := by
  simp [txAccept, h]

/-- An RX step that takes a byte counts it, and ends the reply after the last one. -/
theorem rxTake_seq {c : WireCmd} {b : Byte} {rest : List Byte} {s : State} :
    (rxTake c b rest s).seq =
      { s.seq with
        rxCnt := s.seq.rxCnt + 1#5, stallCnt := 0#16
        phase := if s.seq.rxCnt.toNat + 1 = rlen c then .fin else s.seq.phase } := rfl

/-- The counters at a position of the rules, phase by phase (10_state.md R31 to R33). -/
theorem seqOk_counters {q : Sequencer} {c : WireCmd} (h : seqOk q = true) (hc : curCmd q = some c) :
    (q.phase = .tx → q.txIdx.toNat < flen c ∧ q.rxCnt = 0#5) ∧
    (q.phase = .rx → q.txIdx = 0#3 ∧ q.rxCnt.toNat < rlen c) ∧
    (q.phase = .fin → q.txIdx = 0#3 ∧ q.rxCnt.toNat = rlen c ∧ q.stallCnt = 0#16) := by
  rcases seqOk_cases h with rfl | ⟨c', hc', -, hq⟩
  · simp at hc
  · obtain rfl : c = c' := by rw [hc] at hc'; exact Option.some.inj hc'
    rcases hq with ⟨hp, h1⟩ | ⟨hp, h1⟩ | ⟨hp, h1⟩ <;> simp [hp, h1]

/-- The checksum check touches `CSUM_ERR` alone (42_decode_and_status.md R201). -/
theorem csumCheck_eq (n : Nat) (s : State) :
    csumCheck n s =
      { s with status := { s.status with
          csumErr := s.status.csumErr || (csumOn s && decide (replySum s.buf n ≠ 0#8)) } } := by
  unfold csumCheck
  split
  · next h => simp [h.1, h.2]
  · next h =>
    have : (csumOn s && decide (replySum s.buf n ≠ 0#8)) = false := by
      simpa [imp_iff_not_or] using h
    rw [this]
    simp

/-- The sequencer goes to the next exchange, or the operation completes (41_host_operations.md R168). -/
theorem seqAdvance_cases (s : State) :
    (s.seq.step.toNat + 1 < (prog s.seq.op).length ∧
      seqAdvance s = { s with seq := exchStart { s.seq with step := s.seq.step + 1#2 } }) ∨
    ((prog s.seq.op).length ≤ s.seq.step.toNat + 1 ∧ seqAdvance s = opComplete s) := by
  unfold seqAdvance
  split
  · exact .inl ⟨‹_›, rfl⟩
  · exact .inr ⟨by omega, rfl⟩

/-! ### The meanings of the wire exchanges -/

/-- The post-processing of each wire command (40_wire_exchanges.md R127 to R132). -/
def postOf : WireCmd → State → State
  | .close | .readSerial | .openCmd | .setCont => postNothing
  | .readConc => decodeConcAndCommit
  | .readPc => decodePC

/-- The six wire exchanges share one primitive. -/
theorem exec_ofCmd (c : WireCmd) (s : State) :
    exec (Instr.ofCmd c) s = exchangeStep c (postOf c) s := by
  cases c <;> rfl

theorem exchangeStep_idle {c : WireCmd} {post : State → State} {s : State}
    (h : s.seq.phase = .idle) : exchangeStep c post s = .next s := by
  simp [exchangeStep, h]

theorem exchangeStep_tx {c : WireCmd} {post : State → State} {s : State}
    (h : s.seq.phase = .tx) : exchangeStep c post s = txStep c s := by
  simp [exchangeStep, h]

theorem exchangeStep_rx {c : WireCmd} {post : State → State} {s : State}
    (h : s.seq.phase = .rx) : exchangeStep c post s = rxStep c s := by
  simp [exchangeStep, h]

theorem exchangeStep_fin {c : WireCmd} {post : State → State} {s : State}
    (h : s.seq.phase = .fin) : exchangeStep c post s = .next (finStep c post s) := by
  simp [exchangeStep, h]

/-! ### The cycle -/

/-- The engine part of an idle engine is nothing. -/
theorem enginePart_idle {s : State} (h : s.seq.phase = .idle) : enginePart s = .next s := by
  simp [enginePart, busy, h]

/-- The engine part of a running operation is one step of its current exchange. -/
theorem enginePart_busy {s : State} {c : WireCmd} (h : s.seq.phase ≠ .idle)
    (hc : curCmd s.seq = some c) : enginePart s = exec (Instr.ofCmd c) s := by
  simp [enginePart, busy, h, fetchExchange, hc]

/-- A step is a reset, or the host part, then the engine part, then `irq` (00_scope.md R7). -/
theorem step_eq (s : State) :
    step s =
      if (nextInputs s).rst then .next (resetCycle (latch s))
      else andThen (andThen (hostPart (latch s)) enginePart) fun t => .next (driveIrq t) := rfl

/-- Runs compose. -/
theorem run_add (j k : Nat) (s : State) : run (j + k) s = andThen (run j s) (run k) := by
  induction j generalizing s with
  | zero => simp [run]
  | succ j ih =>
    rw [show j + 1 + k = (j + k) + 1 by omega, run, run]
    cases step s <;> simp [ih]

/-- A run that reaches a next state, continued. -/
theorem run_trans {j k : Nat} {s t u : State} (h₁ : run j s = .next t) (h₂ : run k t = .next u) :
    run (j + k) s = .next u := by
  rw [run_add, h₁]; exact h₂

theorem run_one {s t : State} (h : step s = .next t) : run 1 s = .next t := by
  rw [run, h]; rfl

/-- A register at its own address. -/
@[simp] theorem regAt_regAddr (r : HostReg) : regAt (regAddr r) = some r := by
  cases r <;> rfl

/-- The effects a host part can have (20_memory.md R65, 41_host_operations.md R160 to R172). -/
inductive HostEffect (s : State) : State → Prop where
  | nothing : HostEffect s s
  | read (v : Word) : HostEffect s { s with out := { s.out with hrdata := some v } }
  | config (d : Word) : HostEffect s (configWrite d s)
  | status (d : Word) : HostEffect s (statusWrite d s)
  | reject (cause : RejCause) (h : cause ≠ .none) : HostEffect s (rejectCmd cause s)
  | start (o : Op) (ho : o ≠ .none) (h : s.seq.phase = .idle) : HostEffect s (startOp o s)
  | abort (c : WireCmd) (hp : s.seq.phase ≠ .idle) (hc : curCmd s.seq = some c) :
    HostEffect s (raiseError .aborted c s.seq.phase (abortCount s.seq) s)

theorem startOrReject_effect (o : Op) (ho : o ≠ .none) (s : State) :
    HostEffect s (startOrReject o s) := by
  unfold startOrReject
  split
  · exact .reject .busy (by decide)
  · next h => exact .start o ho (by simpa [busy] using h)

/-- The four host operations are the instructions a `CMD` word decodes to. -/
theorem decodeHostOp_cases {d : Word} {i : Instr} (h : decodeHostOp d = .instr i) :
    (∃ x, i = .nop x) ∨ (∃ x, i = .init x) ∨ (∃ x, i = .measure x) ∨ ∃ x, i = .abort x := by
  unfold decodeHostOp at h
  split at h
  · cases h; exact .inl ⟨_, rfl⟩
  split at h
  · cases h; exact .inr (.inl ⟨_, rfl⟩)
  split at h
  · cases h; exact .inr (.inr (.inl ⟨_, rfl⟩))
  split at h
  · cases h; exact .inr (.inr (.inr ⟨_, rfl⟩))
  · cases h

theorem startOrReject_out (o : Op) (s : State) : (startOrReject o s).out = s.out := by
  unfold startOrReject; split <;> rfl

/-- A `CMD` write that answers a next state has one of those effects, and drives no output itself. -/
theorem cmdWrite_effect {d : Word} {s t : State} (h : cmdWrite d s = .next t) :
    HostEffect s t ∧ t.out = s.out := by
  unfold cmdWrite at h
  split at h
  · next i hi =>
    rcases decodeHostOp_cases hi with ⟨x, rfl⟩ | ⟨x, rfl⟩ | ⟨x, rfl⟩ | ⟨x, rfl⟩
    · cases h; exact ⟨.nothing, rfl⟩
    · cases h; exact ⟨startOrReject_effect .init (by decide) s, startOrReject_out _ _⟩
    · cases h; exact ⟨startOrReject_effect .measure (by decide) s, startOrReject_out _ _⟩
    · simp only [exec, execAbort] at h
      split at h
      · next hb =>
        split at h
        · next c hc => cases h; exact ⟨.abort c (busy_iff.mp hb) hc, rfl⟩
        · cases h
      · cases h; exact ⟨.nothing, rfl⟩
  · cases h; exact ⟨.reject .illegal (by decide), rfl⟩

/-- A register write has one of those effects, and drives no output itself. -/
theorem hostWrite_effect {a : BitVec 6} {d : Word} {s t : State} (h : hostWrite a d s = .next t) :
    HostEffect s t ∧ t.out = s.out := by
  unfold hostWrite at h
  split at h
  · exact cmdWrite_effect h
  all_goals cases h
  · exact ⟨.config _, rfl⟩
  · exact ⟨.status _, rfl⟩
  all_goals exact ⟨.nothing, rfl⟩

/-- Everything a host part can do. -/
theorem hostPart_effect {s t : State} (h : hostPart s = .next t) : HostEffect s t := by
  unfold hostPart at h
  split at h
  · split at h
    · exact (hostWrite_effect h).1
    · cases h; exact .read _
  · cases h; exact .nothing

/-- At a position of the rules the host part never stops. -/
theorem hostPart_next {s : State} (h : seqOk s.seq = true) : ∃ t, hostPart s = .next t := by
  have hab : ∀ x, ∃ t, execAbort x s = .next t := by
    intro x
    unfold execAbort
    split
    · next hb =>
      obtain ⟨c, hc⟩ := curCmd_of_busy h (busy_iff.mp hb)
      exact ⟨_, by rw [hc]⟩
    · exact ⟨_, rfl⟩
  unfold hostPart
  split
  · split
    · unfold hostWrite
      split
      · unfold cmdWrite decodeHostOp
        by_cases h0 : opcodeOf s.pins.hwdata = 0x00#8
        · exact ⟨s, by simp [h0, exec, execNop]⟩
        by_cases h1 : opcodeOf s.pins.hwdata = 0x01#8
        · exact ⟨_, by simp [h1, exec, execInit]; rfl⟩
        by_cases h2 : opcodeOf s.pins.hwdata = 0x02#8
        · exact ⟨_, by simp [h2, exec, execMeasure]; rfl⟩
        by_cases h3 : opcodeOf s.pins.hwdata = 0x0F#8
        · simpa [h3, exec] using hab _
        · exact ⟨_, by simp [h0, h1, h2, h3]; rfl⟩
      all_goals exact ⟨_, rfl⟩
    · exact ⟨_, rfl⟩
  · exact ⟨_, rfl⟩

/-- At a position of the rules the engine part never stops. -/
theorem enginePart_next {s : State} (h : seqOk s.seq = true) : ∃ t, enginePart s = .next t := by
  rcases seqOk_cases h with hi | ⟨c, hc, -, ⟨hp, hk, -⟩ | ⟨hp, -, hk⟩ | ⟨hp, -⟩⟩
  · exact ⟨s, enginePart_idle (by rw [hi]; rfl)⟩
  · rw [enginePart_busy (by simp [hp]) hc, exec_ofCmd, exchangeStep_tx hp]
    obtain ⟨b, -, ⟨-, h⟩ | ⟨-, -, h⟩ | ⟨-, -, h⟩⟩ := txStep_cases hk <;> exact ⟨_, h⟩
  · rw [enginePart_busy (by simp [hp]) hc, exec_ofCmd, exchangeStep_rx hp]
    obtain ⟨b, rest, -, h⟩ | ⟨-, h⟩ := rxStep_cases hk <;> exact ⟨_, h⟩
  · rw [enginePart_busy (by simp [hp]) hc, exec_ofCmd, exchangeStep_fin hp]
    exact ⟨_, rfl⟩

/-- The effects an engine part can have on a running operation at command `c` (40_wire_exchanges.md R122 to
R125): the byte failed, moved, or stalled; a byte was taken, or none was there; or the reply was complete. -/
inductive EngineEffect (c : WireCmd) (s : State) : State → Prop where
  | txError (b : Byte) (hp : s.seq.phase = .tx) (hb : (frame c)[s.seq.txIdx.toNat]? = some b)
    (he : s.pins.txErr = true) :
    EngineEffect c s
      (raiseError .transportError c .tx (s.seq.txIdx.setWidth 5) (txOffer b s))
  | txAccept (b : Byte) (hp : s.seq.phase = .tx) (hb : (frame c)[s.seq.txIdx.toNat]? = some b)
    (he : s.pins.txErr = false) (hr : s.pins.txReady = true) :
    EngineEffect c s (txAccept c b (txOffer b s))
  | txStall (b : Byte) (hp : s.seq.phase = .tx) (hb : (frame c)[s.seq.txIdx.toNat]? = some b)
    (he : s.pins.txErr = false) (hr : s.pins.txReady = false) :
    EngineEffect c s (stall c .tx (s.seq.txIdx.setWidth 5) (txOffer b s))
  | rxTake (b : Byte) (rest : List Byte) (hp : s.seq.phase = .rx)
    (hk : s.seq.rxCnt.toNat < rlen c) (hq : s.link.rxq = b :: rest) :
    EngineEffect c s (rxTake c b rest s)
  | rxStall (hp : s.seq.phase = .rx) (hk : s.seq.rxCnt.toNat < rlen c) (hq : s.link.rxq = []) :
    EngineEffect c s (stall c .rx s.seq.rxCnt s)
  | fin (hp : s.seq.phase = .fin) : EngineEffect c s (finStep c (postOf c) s)

/-- Everything the exchange of `c` can do outside IDLE. -/
theorem exec_ofCmd_effect {c : WireCmd} {s t : State} (hp : s.seq.phase ≠ .idle)
    (h : exec (Instr.ofCmd c) s = .next t) : EngineEffect c s t := by
  rw [exec_ofCmd] at h
  cases hph : s.seq.phase with
  | idle => exact absurd hph hp
  | tx =>
    rw [exchangeStep_tx hph] at h
    obtain ⟨b, hb, ⟨he, h'⟩ | ⟨he, hr, h'⟩ | ⟨he, hr, h'⟩⟩ := txStep_cases (txIdx_lt_of_txStep h)
    all_goals rw [h'] at h; cases h
    · exact .txError b hph hb he
    · exact .txAccept b hph hb he hr
    · exact .txStall b hph hb he hr
  | rx =>
    rw [exchangeStep_rx hph] at h
    have hk := rxCnt_lt_of_rxStep h
    obtain ⟨b, rest, hq, h'⟩ | ⟨hq, h'⟩ := rxStep_cases hk
    all_goals rw [h'] at h; cases h
    · exact .rxTake b rest hph hk hq
    · exact .rxStall hph hk hq
  | fin =>
    rw [exchangeStep_fin hph] at h
    cases h
    exact .fin hph

/-- Everything an engine part can do. -/
theorem enginePart_effect {s t : State} (h : enginePart s = .next t) :
    (s.seq.phase = .idle ∧ t = s) ∨
    ∃ c, s.seq.phase ≠ .idle ∧ curCmd s.seq = some c ∧ EngineEffect c s t := by
  by_cases hp : s.seq.phase = .idle
  · rw [enginePart_idle hp] at h
    exact .inl ⟨hp, by cases h; rfl⟩
  · cases hc : curCmd s.seq with
    | none => simp [enginePart, busy, hp, fetchExchange, hc] at h
    | some c =>
      rw [enginePart_busy hp hc] at h
      exact .inr ⟨c, hp, rfl, exec_ofCmd_effect hp h⟩

/-- Everything a step can do: reset, or a host part and then an engine part. -/
theorem step_effect {s t : State} (h : step s = .next t) :
    ((nextInputs s).rst = true ∧ t = resetCycle (latch s)) ∨
    ((nextInputs s).rst = false ∧ ∃ u v, HostEffect (latch s) u ∧ hostPart (latch s) = .next u ∧
      enginePart u = .next v ∧ t = driveIrq v) := by
  rw [step_eq] at h
  cases hr : (nextInputs s).rst with
  | true => rw [hr] at h; cases h; exact .inl ⟨rfl, rfl⟩
  | false =>
    rw [hr, if_neg (by decide), andThen_eq_next] at h
    obtain ⟨v, hv, ht⟩ := h
    obtain ⟨u, hu, hv⟩ := andThen_eq_next.mp hv
    cases ht
    exact .inr ⟨rfl, u, v, hostPart_effect hu, hu, hv, rfl⟩

/-! ### What stays the same -/

/-- Every host register but `STATUS` is a function of the variant, `CONFIG` and the snapshot. -/
theorem hostRead_congr {s t : State} {a : BitVec 6} (hw : t.hw = s.hw) (hc : t.cfg = s.cfg)
    (hs : t.snap = s.snap) (ha : a ≠ regAddr .status) : hostRead a t = hostRead a s := by
  unfold hostRead
  cases hr : regAt a with
  | none => rfl
  | some r =>
    cases r <;> simp only [hw, hc, hs]
    exact absurd (by revert hr; revert a; decide) ha

/-- A stall changes the sequencer and the error record alone. -/
theorem stall_frame (c : WireCmd) (ph : Phase) (n : BitVec 5) (s : State) :
    stall c ph n s =
        { s with status := (stall c ph n s).status, seq := (stall c ph n s).seq } ∧
      (stall c ph n s).status.valid = s.status.valid ∧
      ((stall c ph n s).seq.op = s.seq.op ∨ (stall c ph n s).seq = Sequencer.idle) := by
  rcases stall_cases c ph n s with ⟨-, e⟩ | ⟨-, -, e⟩ | ⟨-, e⟩ <;> rw [e] <;> simp [raiseError]

/-- Advancing the sequencer changes it, `DONE` and `INIT_DONE` alone. -/
theorem seqAdvance_frame (s : State) :
    seqAdvance s =
        { s with
          status := { s.status with
            done := (seqAdvance s).status.done, initDone := (seqAdvance s).status.initDone }
          seq := (seqAdvance s).seq } ∧
      ((seqAdvance s).seq.op = s.seq.op ∨ (seqAdvance s).seq = Sequencer.idle) := by
  rcases seqAdvance_cases s with ⟨-, e⟩ | ⟨-, e⟩ <;> rw [e] <;> simp [opComplete]

/-- A step without reset and without a host access is the engine part on the sampled inputs. -/
theorem step_no_access {s : State} (hr : (nextInputs s).rst = false)
    (hh : (nextInputs s).hsel = false) :
    step s = andThen (enginePart (latch s)) fun t => .next (driveIrq t) := by
  have h : hostPart (latch s) = .next (latch s) := by simp [hostPart, hh]
  rw [step_eq, hr, h]
  rfl

/-- The reply sum of a buffer that starts with a whole reply. -/
theorem replySum_of_toList {b : Buffer} {reply rest : List Byte} (h : b.toList = reply ++ rest) :
    replySum b reply.length = Frame.sum8 reply := by
  simp [replySum, bufTake, h]

/-- A byte of a buffer that starts with a whole reply. -/
theorem getElem_of_toList {b : Buffer} {reply rest : List Byte} (h : b.toList = reply ++ rest)
    {k : Nat} (hk : k < reply.length) (hb : k < 20) : b[k] = reply[k] := by
  have e : b[k] = b.toList[k]'(by simpa) := by simp
  rw [e]
  simp [h, hk]

end Sys2Proof.Machine
end

