-- ==== Sys2Proof/Laws/PerInstr.lean ====
section
/-! SUPPORT. Per instruction: its encoding is a well-formed code. -/

namespace Sys2Proof.Laws.CodeWellFormed

/-- The code of a well-formed instruction passes the checks of its space (30_encoding.md R90, R91, R98). -/
def Statement (i : Instr) : Prop :=
  i.wellFormed = true → (encode i).wellFormed = true

theorem nop (x : BitVec 24) : Statement (.nop x) := by
  have h : (cmdWordOf x 0x00#8).extractLsb' 0 8 = 0x00#8 := opcodeOf_append x _
  simp [Statement, encode, Code.wellFormed, h]

theorem init (x : BitVec 24) : Statement (.init x) := by
  have h : (cmdWordOf x 0x01#8).extractLsb' 0 8 = 0x01#8 := opcodeOf_append x _
  simp [Statement, encode, Code.wellFormed, h]

theorem measure (x : BitVec 24) : Statement (.measure x) := by
  have h : (cmdWordOf x 0x02#8).extractLsb' 0 8 = 0x02#8 := opcodeOf_append x _
  simp [Statement, encode, Code.wellFormed, h]

theorem abort (x : BitVec 24) : Statement (.abort x) := by
  have h : (cmdWordOf x 0x0F#8).extractLsb' 0 8 = 0x0F#8 := opcodeOf_append x _
  simp [Statement, encode, Code.wellFormed, h]

theorem close : Statement .close := fun _ => rfl

theorem readSerial : Statement .readSerial := fun _ => rfl

theorem openCmd : Statement .openCmd := fun _ => rfl

theorem setCont : Statement .setCont := fun _ => rfl

theorem readConc : Statement .readConc := fun _ => rfl

theorem readPc : Statement .readPc := fun _ => rfl

end Sys2Proof.Laws.CodeWellFormed
end

