-- ==== Sys2Proof/Machine/HostProgram.lean ====
section
/-! DEFINITION. Host programs (30_encoding.md R102): their lines, their encoding, and running them, with the source's two calls (41_host_operations.md R173). -/

namespace Sys2Proof.Machine

/-- The access of a line that is one host access: write or read, word address, data (R102). -/
def lineAccess : HostLine → Option (Bool × BitVec 6 × Word)
  | .wr r v => some (true, regAddr r, v)
  | .rd r => some (false, regAddr r, 0#32)
  | .nop => some (true, regAddr .cmd, 0x00#32)
  | .init => some (true, regAddr .cmd, 0x01#32)
  | .measure => some (true, regAddr .cmd, 0x02#32)
  | .abort => some (true, regAddr .cmd, 0x0F#32)
  | .wait => none
  | .sensor _ => none

/-- The encoding of a program: the (byte address, data) pairs of its writes (R102). -/
def programCode (p : List HostLine) : List (Nat × Word) :=
  p.filterMap fun l =>
    match lineAccess l with
    | some (true, a, d) => some (a.toNat * 4, d)
    | _ => none

/-- The next step's inputs with the host pins of one access and `rst` = 0; the transport's stay as they
are in `sched`, or are free draws. -/
def driveHost (w : Bool) (a : BitVec 6) (d : Word) (s : State) : State :=
  { s with
    sched :=
      { nextInputs s with rst := false, hsel := true, hwrite := w, haddr := a, hwdata := d }
        :: s.sched.tail
    draws := if s.sched.isEmpty then s.draws + 1 else s.draws }

/-- Whether the last step read a word whose bit 0 (`BUSY`) is 0. -/
def readIdle (s : State) : Bool :=
  match s.out.hrdata with
  | some v => !v.getLsbD 0
  | none => false

/-- `WAIT` (R102): `RD STATUS` until bit 0 reads 0; none if that takes more than `fuel` reads, since the
wait is unbounded (70_reset_and_hazards.md R280; log 19). -/
def waitIdle : Nat → State → Option (Host.Outcome State Fault Refusal)
  | 0, _ => none
  | fuel + 1, s =>
    match step (driveHost false (regAddr .status) 0#32 s) with
    | .next t => if readIdle t then some (.next t) else waitIdle fuel t
    | .fault r => some (.fault r)
    | .refused r => some (.refused r)

/-- One line of a host program: one step for an access, no step for an environment line. -/
def runLine (fuel : Nat) (l : HostLine) (s : State) : Option (Host.Outcome State Fault Refusal) :=
  match l with
  | .sensor bs => some (.next { s with link := { s.link with rxq := s.link.rxq ++ bs } })
  | .wait => waitIdle fuel s
  | l =>
    match lineAccess l with
    | some (w, a, d) => some (step (driveHost w a d s))
    | none => none

/-- A host program, line after line. -/
def runProgram (fuel : Nat) : List HostLine → State → Option (Host.Outcome State Fault Refusal)
  | [], s => some (.next s)
  | l :: p, s =>
    match runLine fuel l s with
    | some (.next t) => runProgram fuel p t
    | o => o

/-- The source's `initialize()` (41_host_operations.md R173). -/
def initializeCall : List HostLine := [.init, .wait]

/-- The source's `measure()` (41_host_operations.md R173). -/
def measureCall : List HostLine := [.measure, .wait]

/-- How a call ended (R173): failed if `ERR`, succeeded if `DONE`. -/
def callSucceeded (s : State) : Bool :=
  s.status.done && !s.status.err

end Sys2Proof.Machine
end

