-- ==== Sys2Proof/Tests/Slice0.lean ====
section
/-! SUPPORT. Tests, whose expected results are the vectors of 95_test_vectors.md and the tables of R92 and R98, and a witness for each statement's hypotheses. -/

namespace Sys2Proof.Machine.Tests

/-! ### Well-formedness: one ill-formed term for each check -/

theorem test_lead_refused : Frame.leadOk [0x10#8, 0x01#8, 0x1F#8, 0xD0#8] = false := by decide

theorem test_length_refused : Frame.lengthOk [0x11#8, 0x02#8, 0x1F#8, 0xCE#8] = false := by decide

theorem test_length_refuses_no_length_byte : Frame.lengthOk [0x11#8] = false := by decide

theorem test_sum_refused : Frame.sumOk [0x11#8, 0x01#8, 0x1F#8, 0xCE#8] = false := by decide

theorem test_code_refused :
    (Code.cmdWord 0x00000003#32).wellFormed = false ∧
    (Code.frameBytes [0x11#8, 0x01#8, 0x1F#8, 0xCE#8]).wellFormed = false := by decide

theorem test_rejections_by_name :
    decode (.cmdWord 0x000000FF#32) = .rejected .illegalOp ∧
    decode (.frameBytes []) = .rejected .badLead ∧
    decode (.frameBytes [0x10#8, 0x01#8, 0x1F#8, 0xD0#8]) = .rejected .badLead ∧
    decode (.frameBytes [0x11#8, 0x02#8, 0x1F#8, 0xCE#8]) = .rejected .badLength ∧
    decode (.frameBytes [0x11#8, 0x01#8, 0x1F#8, 0xCE#8]) = .rejected .badSum ∧
    decode (.frameBytes [0x11#8, 0x01#8, 0x20#8, 0xCE#8]) = .rejected .unknownFrame := by decide

/-! ### Decoding: every row's word, written out from R92 and R98 -/

theorem test_decode_host_operations :
    decode (.cmdWord 0b00000000000000000000000000000000#32) = .instr (.nop 0#24) ∧
    decode (.cmdWord 0b00010010001101000101011000000001#32) = .instr (.init 0x123456#24) ∧
    decode (.cmdWord 0b10000000000000000000000000000010#32) = .instr (.measure 0x800000#24) ∧
    decode (.cmdWord 0b00000000000000000000000100001111#32) = .instr (.abort 0x000001#24) := by
  decide

theorem test_decode_frames :
    decode (.frameBytes [0x11#8, 0x03#8, 0x0C#8, 0x01#8, 0x1E#8, 0xC1#8]) = .instr .close ∧
    decode (.frameBytes [0x11#8, 0x01#8, 0x1F#8, 0xCF#8]) = .instr .readSerial ∧
    decode (.frameBytes [0x11#8, 0x03#8, 0x0C#8, 0x02#8, 0x1E#8, 0xC0#8]) = .instr .openCmd ∧
    decode (.frameBytes [0x11#8, 0x03#8, 0x0D#8, 0xFF#8, 0xFB#8, 0xE5#8]) = .instr .setCont ∧
    decode (.frameBytes [0x11#8, 0x02#8, 0x0B#8, 0x01#8, 0xE1#8]) = .instr .readConc ∧
    decode (.frameBytes [0x11#8, 0x01#8, 0x0B#8, 0xE3#8]) = .instr .readPc := by decide

theorem test_table_words :
    decodeTableWord 32 0x00000000 = some (.nop 0#24) ∧
    decodeTableWord 8 0x01 = some (.init 0#24) ∧
    decodeTableWord 32 0x00000002 = some (.measure 0#24) ∧
    decodeTableWord 32 0x0000000F = some (.abort 0#24) ∧
    decodeTableWord 48 0x11030C011EC1 = some .close ∧
    decodeTableWord 32 0x11011FCF = some .readSerial ∧
    decodeTableWord 48 0x11030C021EC0 = some .openCmd ∧
    decodeTableWord 48 0x11030DFFFBE5 = some .setCont ∧
    decodeTableWord 40 0x11020B01E1 = some .readConc ∧
    decodeTableWord 32 0x11010BE3 = some .readPc ∧
    decodeTableWord 48 0x11030DFFFFE1 = none := by decide

/-! ### Small states -/

/-- Whether an outcome is a next state with a property. -/
def nextSat (o : Host.Outcome State Fault Refusal) (p : State → Bool) : Bool :=
  match o with
  | .next s => p s
  | _ => false

/-- The inputs of a cycle in which the host writes a register, and no byte is accepted. -/
def hostWr (r : HostReg) (d : Word) : Inputs :=
  { Inputs.quiet with hsel := true, hwrite := true, haddr := regAddr r, hwdata := d }

/-- The reset state with the inputs of the coming step. -/
def withInputs (i : Inputs) : State :=
  { State.reset with sched := [i] }

/-- A sequencer at a wire command's place. -/
def seqIn (c : WireCmd) (ph : Phase) (tx : BitVec 3) (rx : BitVec 5) : Sequencer :=
  { seqAt (progPlace c).1 (progPlace c).2 with phase := ph, txIdx := tx, rxCnt := rx }

/-- The reset state in the middle of an exchange, with the inputs of the coming step. -/
def inExchange (c : WireCmd) (ph : Phase) (tx : BitVec 3) (rx : BitVec 5) (i : Inputs) : State :=
  { State.reset with seq := seqIn c ph tx rx, sched := [i] }

/-- A response buffer that starts with a reply. -/
def bufOf (bs : List Byte) : Buffer :=
  Vector.ofFn fun k => bs.getD k.val 0#8

/-- `R_PC` of 95_test_vectors.md. -/
def replyPc : List Byte :=
  [0x11#8, 0x16#8, 0x0B#8, 0x00#8, 0x00#8, 0x01#8, 0xF4#8, 0x00#8, 0x00#8, 0x00#8, 0xC8#8, 0x00#8,
    0x00#8, 0x00#8, 0x64#8, 0x00#8, 0x00#8, 0x00#8, 0x00#8, 0xAD#8]

/-- `R_CONC` of 95_test_vectors.md. -/
def replyConc : List Byte :=
  [0x11#8, 0x16#8, 0x0B#8, 0x00#8, 0x00#8, 0x0F#8, 0x00#8, 0x00#8, 0x00#8, 0x05#8, 0x00#8, 0x00#8,
    0x00#8, 0x00#8, 0x00#8, 0x81#8, 0x00#8, 0x02#8, 0x01#8, 0x36#8]

/-- The end of a MEASURE's replies: `R_CONC` taken, the counts of `R_PC` staged. -/
def atCommit (i : Inputs) : State :=
  { inExchange .readConc .fin 0#3 20#5 i with
    buf := bufOf replyConc, stg := { c05 := 500#32, c25 := 200#32, c10 := 100#32 } }

/-! ### One step of each instruction -/

/-- O1: NOP changes nothing. -/
theorem test_nop :
    nextSat (exec (.nop 0xFFFFFF#24) (inExchange .readPc .rx 0#3 7#5 .quiet))
      (· == inExchange .readPc .rx 0#3 7#5 .quiet) = true := by decide

/-- O3: INIT from `STATUS` = 0x0000001A. -/
theorem test_init :
    nextSat
      (step { withInputs (hostWr .cmd 0x01#32) with
        status := { StatusReg.reset with done := true, valid := true, initDone := true } })
      (fun t => statusWord t == 0x00000109#32) = true := by decide

/-- O4: MEASURE from `STATUS` = 0x00000012. -/
theorem test_measure :
    nextSat
      (step { withInputs (hostWr .cmd 0x02#32) with
        status := { StatusReg.reset with done := true, initDone := true } })
      (fun t => statusWord t == 0x00000211#32 && t.out.txData == 0x11#8) = true := by decide

/-- O5: MEASURE while INIT runs. -/
theorem test_measure_busy :
    nextSat (step (inExchange .readSerial .tx 2#3 0#5 (hostWr .cmd 0x02#32)))
      (fun t => statusWord t == 0x00000521#32) = true := by decide

/-- O9: ABORT in RX of READ_CONC after 7 bytes. -/
theorem test_abort_rx :
    nextSat (step (inExchange .readConc .rx 0#3 7#5 (hostWr .cmd 0x0F#32)))
      (fun t => statusWord t == 0x01E43004#32) = true := by decide

/-- O10: ABORT in FIN of READ_CONC. -/
theorem test_abort_fin :
    nextSat (step (atCommit (hostWr .cmd 0x0F#32)))
      (fun t => statusWord t == 0x05343004#32 && t.snap == Snapshot.reset) = true := by decide

/-- X5: the third byte of CLOSE fails. -/
theorem test_close_write_failure :
    nextSat (step (inExchange .close .tx 2#3 0#5 { readyInputs with txErr := true }))
      (fun t => statusWord t == 0x00902004#32 && t.out.txData == 0x0C#8) = true := by decide

/-- L2.5 step 6: the last byte of CLOSE moves, and RX begins. -/
theorem test_close_last_byte :
    nextSat (step (inExchange .close .tx 5#3 0#5 readyInputs))
      (fun t => t.out.txData == 0xC1#8 && t.seq == seqIn .close .rx 0#3 0#5) = true := by decide

/-- R92: the third byte of READ_SERIAL is 1F. -/
theorem test_read_serial_third_byte :
    nextSat (step (inExchange .readSerial .tx 2#3 0#5 readyInputs))
      (fun t => t.out.txData == 0x1F#8 && t.link.sent == [0x1F#8] &&
        t.seq == seqIn .readSerial .tx 3#3 0#5) = true := by decide

/-- R128, R100: after READ_SERIAL's 14 bytes, SET_CONT. -/
theorem test_read_serial_fin :
    nextSat (step (inExchange .readSerial .fin 0#3 14#5 .quiet))
      (fun t => t.seq == seqIn .setCont .tx 0#3 0#5 && t.status == StatusReg.reset) = true := by
  decide

/-- R93: the fifth byte of SET_CONT is FB. -/
theorem test_set_cont_fifth_byte :
    nextSat (step (inExchange .setCont .tx 4#3 0#5 readyInputs))
      (fun t => t.out.txData == 0xFB#8) = true := by decide

/-- R130: SET_CONT's reply has 6 bytes. -/
theorem test_set_cont_last_reply_byte :
    nextSat (step { inExchange .setCont .rx 0#3 5#5 .quiet with link := { rxq := [0x10#8], sent := [] } })
      (fun t => t.seq == seqIn .setCont .fin 0#3 6#5 && t.out.rxPop && t.buf[5] == 0x10#8) =
        true := by decide

/-- P1 step 57: OPEN completes INIT. -/
theorem test_open_fin :
    nextSat (step (inExchange .openCmd .fin 0#3 5#5 .quiet))
      (fun t => statusWord t == 0x00000012#32) = true := by decide

/-- R129: OPEN's reply has 5 bytes. -/
theorem test_open_last_reply_byte :
    nextSat (step { inExchange .openCmd .rx 0#3 4#5 .quiet with link := { rxq := [0xE6#8], sent := [] } })
      (fun t => t.seq == seqIn .openCmd .fin 0#3 5#5 && t.link.rxq == []) = true := by decide

/-- L1.2, L1.3, L1.4: the commit of `R_PC` and `R_CONC`. -/
theorem test_read_conc_commit :
    nextSat (step (atCommit .quiet))
      (fun t => statusWord t == 0x0000000A#32 && t.snap ==
        { count05 := 500#32, count25 := 200#32, count10 := 100#32, pm25 := 15#16, pm10 := 5#16,
          alarm := 0x81#8, calib := 0x02#8, workstatus := 0x01#8 }) = true := by decide

/-- O13: a clear of `DONE` loses to the completion. -/
theorem test_read_conc_beats_clear :
    nextSat (step (atCommit (hostWr .status 0x02#32)))
      (fun t => statusWord t == 0x0000000A#32) = true := by decide

/-- L1.2: the counts of `R_PC` are staged, not committed. -/
theorem test_read_pc_fin :
    nextSat (step { inExchange .readPc .fin 0#3 20#5 .quiet with buf := bufOf replyPc })
      (fun t => t.stg == { c05 := 500#32, c25 := 200#32, c10 := 100#32 } &&
        t.snap == Snapshot.reset && t.seq == seqIn .readConc .tx 0#3 0#5) = true := by decide

/-- X3: with `TIMEOUT` = 1 the first RX stall raises. -/
theorem test_read_pc_timeout :
    nextSat
      (step { inExchange .readPc .rx 0#3 0#5 .quiet with
        cfg := { irqEn := false, csumEn := false, timeout := 1#16 } })
      (fun t => statusWord t == 0x00251004#32) = true := by decide

/-! ### The rest of the machine -/

/-- O6, O7: an illegal code. -/
theorem test_illegal_code :
    nextSat (step (withInputs (hostWr .cmd 0x03#32))) (fun t => statusWord t == 0x00000820#32) =
      true := by decide

/-- O12: clearing `ERR` clears the record. -/
theorem test_clear_error_record :
    nextSat
      (hostWrite (regAddr .status) 0x04#32
        (raiseError .aborted .readConc .rx 7#5 State.reset))
      (fun t => statusWord t == 0#32) = true := by decide

/-- O15, L2.4: what `CONFIG` reads after a write of all ones, in both variants. -/
theorem test_config_write :
    configWord (configWrite 0xFFFFFFFF#32 State.reset).cfg = 0xFFFF0003#32 ∧
    configWord (configWrite 0xFFFFFFFF#32 { State.reset with hw := { hasCsum := false } }).cfg =
      0xFFFF0001#32 := by decide

/-- L2.3: rows of the `INTERP` table. -/
theorem test_interp :
    interpWord { Snapshot.reset with workstatus := 0x01#8, pm25 := 1000#16, pm10 := 5#16 } =
      0x00000046#32 ∧
    interpWord { Snapshot.reset with workstatus := 0x83#8, pm25 := 1001#16, pm10 := 999#16 } =
      0x00000010#32 ∧
    interpWord { Snapshot.reset with workstatus := 0x80#8, pm25 := 1000#16, pm10 := 1000#16 } =
      0x0000004F#32 := by decide

/-- L2.4: reply sums. -/
theorem test_reply_sums :
    replySum (bufOf replyPc) 20 = 0x00#8 ∧ replySum (bufOf (replyPc.take 19)) 20 = 0x53#8 ∧
    replySum (bufOf replyConc) 20 = 0x00#8 ∧
    replySum (bufOf [0x01#8, 0x02#8, 0x03#8, 0x04#8, 0xF6#8]) 5 = 0x00#8 := by decide

/-- L2.2: byte order. -/
theorem test_extraction :
    be32 (bufOf [0x01#8, 0x02#8, 0x03#8, 0x04#8]) 0 = 0x01020304#32 ∧
    le16 (bufOf [0x03#8, 0xE8#8]) 0 = 0xE803#16 := by decide

/-- I2, I4: `irq` follows `DONE`, not `REJECT`. -/
theorem test_irq :
    irq { State.reset with
      cfg := { irqEn := true, csumEn := false, timeout := 0#16 }
      status := { StatusReg.reset with done := true } } = true ∧
    irq { State.reset with
      cfg := { irqEn := true, csumEn := false, timeout := 0#16 }
      status := { StatusReg.reset with reject := true } } = false := by decide

/-- P2, R102: a program's encoding is the list of its writes. -/
theorem test_program_code :
    programCode [.wr .config 2#32, .measure, .wait, .rd .count05, .wr .status 2#32, .measure] =
      [(0x04, 2#32), (0x00, 2#32), (0x08, 2#32), (0x00, 2#32)] := by decide

/-- R102: a write line runs as one step that writes the register. -/
theorem test_program_line :
    (runLine 0 (.wr .config 0x00080001#32) (withInputs .quiet)).any
      (fun o => nextSat o fun t => configWord t.cfg == 0x00080001#32) = true := by decide

/-- The first step after reset runs the placed host operation. -/
theorem test_placed_host_operations :
    nextSat (step (State.reset.withFetchWord 32 0x00)) (fun t => statusWord t == 0#32) = true ∧
    nextSat (step (State.reset.withFetchWord 32 0x01))
      (fun t => statusWord t == 0x00000101#32 && t.link.sent == [0x11#8]) = true ∧
    nextSat (step (State.reset.withFetchWord 32 0x02))
      (fun t => statusWord t == 0x00000201#32 && t.link.sent == [0x11#8]) = true ∧
    nextSat (step (State.reset.withFetchWord 32 0x0F)) (fun t => statusWord t == 0#32) = true := by
  decide

/-- The first step after reset runs the placed wire exchange. -/
theorem test_placed_exchanges :
    nextSat (step (State.reset.withFetchWord 48 0x11030C011EC1))
      (fun t => t.link.sent == [0x11#8] && t.seq == seqIn .close .tx 1#3 0#5) = true ∧
    nextSat (step (State.reset.withFetchWord 32 0x11011FCF))
      (fun t => t.link.sent == [0x11#8] && t.seq == seqIn .readSerial .tx 1#3 0#5) = true ∧
    nextSat (step (State.reset.withFetchWord 48 0x11030C021EC0))
      (fun t => t.link.sent == [0x11#8] && t.seq == seqIn .openCmd .tx 1#3 0#5) = true ∧
    nextSat (step (State.reset.withFetchWord 48 0x11030DFFFBE5))
      (fun t => t.link.sent == [0x11#8] && t.seq == seqIn .setCont .tx 1#3 0#5) = true ∧
    nextSat (step (State.reset.withFetchWord 40 0x11020B01E1))
      (fun t => t.link.sent == [0x11#8] && t.seq == seqIn .readConc .tx 1#3 0#5) = true ∧
    nextSat (step (State.reset.withFetchWord 32 0x11010BE3))
      (fun t => t.link.sent == [0x11#8] && t.seq == seqIn .readPc .tx 1#3 0#5) = true := by decide

/-! ### Witnesses: each statement's hypotheses are met together -/

/-- A state with the reset values of `STATUS` and the snapshot, the default variant and any position of the
rules meets the invariant. -/
theorem inv_of_reset_status {s : State} (hq : seqOk s.seq = true) (hs : s.status = .reset)
    (hn : s.snap = .reset) (hw : s.hw.hasCsum = true) : EngineInv s where
  seq := hq
  busyClear := fun _ => by rw [hs]; decide
  oneEnd := by rw [hs]; decide
  errCode := by rw [hs]; decide
  noRecord := by rw [hs]; decide
  record := by rw [hs]; decide
  recordPhase := by rw [hs]; decide
  rejCause := by rw [hs]; decide
  initRunning := fun _ => by rw [hs]; rfl
  noValidator := fun h => absurd (hw.symm.trans h) (by decide)
  noSnapshot := fun _ => hn

/-- The reset state with no validator. -/
def withoutCsum : State :=
  { State.reset with hw := { hasCsum := false } }

theorem inv_withoutCsum : EngineInv withoutCsum where
  seq := by decide
  busyClear := by decide
  oneEnd := by decide
  errCode := by decide
  noRecord := by decide
  record := by decide
  recordPhase := by decide
  rejCause := by decide
  initRunning := by decide
  noValidator := by decide
  noSnapshot := by decide

/-- A read of `STATUS`. -/
def hostRd (r : HostReg) : Inputs :=
  { Inputs.quiet with hsel := true, haddr := regAddr r }

/-- READ_PC waiting for its first reply byte, with a timeout and inputs to come. -/
def waiting (timeout : Half) (ins : List Inputs) : State :=
  { State.reset with
    seq := seqIn .readPc .rx 0#3 0#5, cfg := { State.reset.cfg with timeout := timeout }
    sched := ins }

/-- READ_PC offering its first byte, with a timeout and inputs to come. -/
def offering (timeout : Half) (ins : List Inputs) : State :=
  { State.reset with
    seq := seqIn .readPc .tx 0#3 0#5, cfg := { State.reset.cfg with timeout := timeout }
    sched := ins }

theorem inv_waiting (timeout : Half) (ins : List Inputs) : EngineInv (waiting timeout ins) :=
  inv_of_reset_status (show seqOk (seqIn .readPc .rx 0#3 0#5) = true by decide) rfl rfl rfl

theorem inv_offering (timeout : Half) (ins : List Inputs) : EngineInv (offering timeout ins) :=
  inv_of_reset_status (show seqOk (seqIn .readPc .tx 0#3 0#5) = true by decide) rfl rfl rfl

theorem witness_HostOpcodeSelectsOperation :
    ∃ a b c d op : Byte, a = 0x00#8 ∧ b = 0x01#8 ∧ c = 0x02#8 ∧ d = 0x0F#8 ∧
      op ≠ 0x00#8 ∧ op ≠ 0x01#8 ∧ op ≠ 0x02#8 ∧ op ≠ 0x0F#8 :=
  ⟨0x00#8, 0x01#8, 0x02#8, 0x0F#8, 0x03#8, by decide⟩

theorem witness_ResetValues : ∃ a : BitVec 6, a ≠ regAddr .params := ⟨regAddr .status, by decide⟩

theorem witness_ResetStep :
    ∃ s : State, (nextInputs s).rst = true ∧ (nextInputs s).hsel = true ∧
      (nextInputs s).hwrite = false :=
  ⟨withInputs { hostRd .status with rst := true }, by decide⟩

theorem witness_StepRunsHostOperation :
    ∃ (s : State) (i : Instr), (nextInputs s).rst = false ∧ (nextInputs s).hsel = true ∧
      (nextInputs s).hwrite = true ∧ (nextInputs s).haddr = regAddr .cmd ∧
      decode (.cmdWord (nextInputs s).hwdata) = .instr i :=
  ⟨withInputs (hostWr .cmd 0x02#32), .measure 0#24, by decide⟩

theorem witness_StepRunsExchange :
    ∃ (s u : State) (c : WireCmd) (i : Instr), (nextInputs s).rst = false ∧
      hostPart (latch s) = .next u ∧ u.seq.phase ≠ .idle ∧ curCmd u.seq = some c ∧
      decode (.frameBytes (frame c)) = .instr i :=
  ⟨inExchange .close .tx 2#3 0#5 .quiet, _, .close, .close, by decide, rfl, by decide, by decide,
    by decide⟩

theorem witness_IdleIsQuiescent :
    ∃ s : State, s.seq.phase = .idle ∧ (nextInputs s).rst = false ∧ (nextInputs s).hsel = false :=
  ⟨withInputs { Inputs.quiet with arrivals := [0xEE#8] }, by decide⟩

theorem witness_OutputsOfAStep :
    ∃ s : State, EngineInv s ∧ (nextInputs s).rst = false ∧ (nextInputs s).hsel = true ∧
      (nextInputs s).hwrite = false :=
  ⟨inExchange .close .tx 2#3 0#5 (hostRd .status),
    inv_of_reset_status (by decide) rfl rfl rfl, by decide⟩

/-- For StreamsMoveByHandshake and IrqFollowsDoneOrErr: a step that answers a next state. -/
theorem witness_StreamsMoveByHandshake : ∃ s t : State, step s = .next t :=
  ⟨inExchange .close .tx 2#3 0#5 readyInputs, _, rfl⟩

theorem witness_IrqFollowsDoneOrErr : ∃ s t : State, step s = .next t :=
  ⟨withInputs { Inputs.quiet with rst := true }, _, rfl⟩

theorem witness_IrqAcknowledge_clear :
    ∃ s : State, s.seq.phase = .idle ∧ (nextInputs s).rst = false ∧ (nextInputs s).hsel = true ∧
      (nextInputs s).hwrite = true ∧ (nextInputs s).haddr = regAddr .status ∧
      (nextInputs s).hwdata.getLsbD 1 = true ∧ (nextInputs s).hwdata.getLsbD 2 = true :=
  ⟨withInputs (hostWr .status 0x06#32), by decide⟩

theorem witness_IrqAcknowledge_start :
    ∃ (s : State) (x : BitVec 24), s.seq.phase = .idle ∧ (nextInputs s).rst = false ∧
      (nextInputs s).hsel = true ∧ (nextInputs s).hwrite = true ∧
      (nextInputs s).haddr = regAddr .cmd ∧
      ((nextInputs s).hwdata = cmdWordOf x 0x01#8 ∨ (nextInputs s).hwdata = cmdWordOf x 0x02#8) ∧
      (nextInputs s).txErr = false ∧ ((nextInputs s).txReady = true ∨ s.cfg.timeout ≠ 1#16) :=
  ⟨withInputs { hostWr .cmd 0x02#32 with txReady := true }, 0#24, by decide⟩

theorem witness_IrqAcknowledge_disable :
    ∃ s : State, EngineInv s ∧ (nextInputs s).rst = false ∧ (nextInputs s).hsel = true ∧
      (nextInputs s).hwrite = true ∧ (nextInputs s).haddr = regAddr .config ∧
      (nextInputs s).hwdata.getLsbD 0 = false :=
  ⟨inExchange .close .tx 2#3 0#5 (hostWr .config 0#32),
    inv_of_reset_status (by decide) rfl rfl rfl, by decide⟩

theorem witness_ReadsHaveNoSideEffect :
    ∃ (s : State) (i : Inputs) (rest : List Inputs), EngineInv s ∧ s.sched = i :: rest ∧
      i.hsel = false :=
  ⟨inExchange .close .tx 2#3 0#5 readyInputs, readyInputs, [],
    inv_of_reset_status (by decide) rfl rfl rfl, rfl, rfl⟩

theorem witness_UnmappedAndReservedBits :
    ∃ (a b : BitVec 6) (s : State), a.toNat = 13 ∧ 13 ≤ b.toNat ∧ b.toNat = 63 ∧ EngineInv s :=
  ⟨13#6, 63#6, State.reset, by decide, by decide, by decide,
    inv_of_reset_status (by decide) rfl rfl rfl⟩

theorem witness_RegisterReads : ∃ a b : BitVec 6, a.toNat = 13 ∧ 13 ≤ b.toNat ∧ b.toNat = 63 :=
  ⟨13#6, 63#6, by decide⟩

theorem witness_ParamsValue :
    ∃ s t : State, s.hw.hasCsum = true ∧ t.hw.hasCsum = false :=
  ⟨State.reset, withoutCsum, by decide⟩

theorem witness_ConfigWriteTakesEffect :
    ∃ s u : State, (nextInputs s).rst = false ∧ (nextInputs s).hsel = true ∧
      (nextInputs s).hwrite = true ∧ (nextInputs s).haddr = regAddr .config ∧
      hostWrite (regAddr .config) (nextInputs s).hwdata (latch s) = .next u :=
  ⟨withInputs (hostWr .config 0x00080001#32), _, by decide, by decide, by decide, by decide, rfl⟩

theorem witness_ReadOnlyWritesHaveNoEffect :
    ∃ r : HostReg, r ≠ .cmd ∧ r ≠ .config ∧ r ≠ .status := ⟨.count05, by decide⟩

theorem witness_StartOperation : ∃ s : State, s.seq.phase = .idle := ⟨State.reset, rfl⟩

theorem witness_BusyRefusal : ∃ s : State, s.seq.phase ≠ .idle :=
  ⟨inExchange .openCmd .fin 0#3 5#5 .quiet, by decide⟩

theorem witness_IllegalCodeRefusal :
    ∃ op : Byte, op ≠ 0x00#8 ∧ op ≠ 0x01#8 ∧ op ≠ 0x02#8 ∧ op ≠ 0x0F#8 := ⟨0xFF#8, by decide⟩

theorem witness_AbortEndsOperation :
    ∃ (s u : State) (c : WireCmd), (s.seq.phase ≠ .idle ∧ curCmd s.seq = some c) ∧
      u.seq.phase = .idle :=
  ⟨inExchange .readConc .fin 0#3 20#5 .quiet, State.reset, .readConc, by decide⟩

theorem witness_AbortWinsOverEngine :
    ∃ (s : State) (x : BitVec 24), EngineInv s ∧ s.seq.phase ≠ .idle ∧ (nextInputs s).rst = false ∧
      (nextInputs s).hsel = true ∧ (nextInputs s).hwrite = true ∧
      (nextInputs s).haddr = regAddr .cmd ∧ (nextInputs s).hwdata = cmdWordOf x 0x0F#8 :=
  ⟨inExchange .readConc .fin 0#3 20#5 (hostWr .cmd 0x0F#32), 0#24,
    inv_of_reset_status (by decide) rfl rfl rfl, by decide⟩

theorem witness_EngineSetBeatsClear_fin :
    ∃ s : State, EngineInv s ∧ curCmd s.seq = some .readConc ∧ s.seq.phase = .fin ∧
      (nextInputs s).rst = false ∧ (nextInputs s).hsel = true ∧ (nextInputs s).hwrite = true ∧
      (nextInputs s).haddr = regAddr .status ∧ s.hw.hasCsum = true ∧ s.cfg.csumEn = true ∧
      replySum s.buf (rlen .readConc) ≠ 0#8 :=
  ⟨{ atCommit (hostWr .status 0x42#32) with
      cfg := { irqEn := false, csumEn := true, timeout := 0#16 }, buf := bufOf [0x01#8] },
    inv_of_reset_status (by decide) rfl rfl rfl, by decide⟩

theorem witness_EngineSetBeatsClear_tx :
    ∃ s : State, EngineInv s ∧ curCmd s.seq = some .close ∧ s.seq.phase = .tx ∧
      (nextInputs s).rst = false ∧ (nextInputs s).hsel = true ∧ (nextInputs s).hwrite = true ∧
      (nextInputs s).haddr = regAddr .status ∧ (nextInputs s).txErr = true :=
  ⟨inExchange .close .tx 5#3 0#5 { hostWr .status 0x04#32 with txErr := true },
    inv_of_reset_status (by decide) rfl rfl rfl, by decide⟩

/-- The two ways to reach `TIMEOUT` in the step of a `STATUS` write. -/
theorem witness_EngineSetBeatsClear_timeout :
    ∃ s u : State, (EngineInv s ∧ EngineInv u) ∧
      (curCmd s.seq = some .readPc ∧ (nextInputs s).rst = false ∧ (nextInputs s).hsel = true ∧
        (nextInputs s).hwrite = true ∧ (nextInputs s).haddr = regAddr .status ∧
        s.cfg.timeout ≠ 0#16 ∧ s.cfg.timeout.toNat ≤ s.seq.stallCnt.toNat + 1 ∧
        s.seq.phase = .tx ∧ (nextInputs s).txErr = false ∧ (nextInputs s).txReady = false) ∧
      curCmd u.seq = some .readPc ∧ (nextInputs u).rst = false ∧ (nextInputs u).hsel = true ∧
      (nextInputs u).hwrite = true ∧ (nextInputs u).haddr = regAddr .status ∧
      u.cfg.timeout ≠ 0#16 ∧ u.cfg.timeout.toNat ≤ u.seq.stallCnt.toNat + 1 ∧
      u.seq.phase = .rx ∧ u.link.rxq = [] ∧ (nextInputs u).arrivals = [] :=
  ⟨offering 1#16 [hostWr .status 0x04#32], waiting 1#16 [hostWr .status 0x04#32],
    ⟨inv_offering _ _, inv_waiting _ _⟩, by decide⟩

theorem witness_HostOperationFrame :
    ∃ (s a b c d : State), exec (.nop 0#24) s = .next a ∧ exec (.init 0#24) s = .next b ∧
      exec (.measure 0#24) s = .next c ∧ exec (.abort 0#24) s = .next d :=
  ⟨inExchange .close .tx 2#3 0#5 .quiet, _, _, _, _, rfl, rfl, rfl, rfl⟩

theorem witness_TxStepMovesOneByte :
    ∃ (s u : State) (b : Byte), (s.seq.phase = .tx ∧
        (frame .close)[s.seq.txIdx.toNat]? = some b ∧ s.pins.txErr = true) ∧
      u.seq.phase = .tx ∧ (frame .close)[u.seq.txIdx.toNat]? = some b ∧ u.pins.txErr = false ∧
      u.pins.txReady = true :=
  ⟨{ inExchange .close .tx 5#3 0#5 .quiet with pins := { readyInputs with txErr := true } },
    { inExchange .close .tx 5#3 0#5 .quiet with pins := readyInputs }, 0xC1#8, by decide⟩

theorem witness_RxStepTakesOneByte :
    ∃ (s : State) (b : Byte) (rest : List Byte), s.seq.phase = .rx ∧
      s.seq.rxCnt.toNat < rlen .readPc ∧ s.link.rxq = b :: rest :=
  ⟨{ inExchange .readPc .rx 0#3 19#5 .quiet with link := { rxq := [0xAD#8], sent := [] } }, 0xAD#8,
    [], by decide⟩

/-- Both ways to stall, each with every clause on `TIMEOUT`: none, the last stall, an earlier one. -/
theorem witness_StallCountsOrTimesOut :
    (∃ b : Byte, (frame .readPc)[(offering 0#16 []).seq.txIdx.toNat]? = some b) ∧
    (offering 0#16 []).seq.phase = .tx ∧ (offering 0#16 []).pins.txErr = false ∧
    (offering 0#16 []).pins.txReady = false ∧
    (waiting 0#16 []).seq.phase = .rx ∧ (waiting 0#16 []).link.rxq = [] ∧
    (waiting 0#16 []).seq.rxCnt.toNat < rlen .readPc ∧
    (waiting 0#16 []).cfg.timeout = 0#16 ∧
    ((waiting 1#16 []).cfg.timeout ≠ 0#16 ∧
      (waiting 1#16 []).cfg.timeout.toNat ≤ (waiting 1#16 []).seq.stallCnt.toNat + 1) ∧
    (waiting 2#16 []).cfg.timeout ≠ 0#16 ∧
    (waiting 2#16 []).seq.stallCnt.toNat + 1 < (waiting 2#16 []).cfg.timeout.toNat :=
  ⟨⟨0x11#8, by decide⟩, by decide⟩

theorem witness_TimeoutAfterExactlyTStalls :
    (EngineInv (offering 3#16 (stalledSteps 3)) ∧
      curCmd (offering 3#16 (stalledSteps 3)).seq = some .readPc ∧
      (offering 3#16 (stalledSteps 3)).seq.phase = .tx ∧
      (offering 3#16 (stalledSteps 3)).seq.stallCnt = 0#16 ∧
      (offering 3#16 (stalledSteps 3)).cfg.timeout ≠ 0#16 ∧
      (offering 3#16 (stalledSteps 3)).sched =
        stalledSteps (offering 3#16 (stalledSteps 3)).cfg.timeout.toNat ++ []) ∧
    EngineInv (waiting 1#16 (stalledSteps 1)) ∧
      curCmd (waiting 1#16 (stalledSteps 1)).seq = some .readPc ∧
      (waiting 1#16 (stalledSteps 1)).seq.phase = .rx ∧
      (waiting 1#16 (stalledSteps 1)).link.rxq = [] ∧
      (waiting 1#16 (stalledSteps 1)).seq.stallCnt = 0#16 ∧
      (waiting 1#16 (stalledSteps 1)).cfg.timeout ≠ 0#16 ∧
      (waiting 1#16 (stalledSteps 1)).sched =
        stalledSteps (waiting 1#16 (stalledSteps 1)).cfg.timeout.toNat ++ [] :=
  ⟨⟨inv_offering _ _, by decide⟩, inv_waiting _ _, by decide⟩

theorem witness_UnboundedWait :
    EngineInv (waiting 0#16 (stalledSteps 4)) ∧
      curCmd (waiting 0#16 (stalledSteps 4)).seq = some .readPc ∧
      (waiting 0#16 (stalledSteps 4)).seq.phase = .rx ∧
      (waiting 0#16 (stalledSteps 4)).link.rxq = [] ∧
      (waiting 0#16 (stalledSteps 4)).cfg.timeout = 0#16 ∧
      (waiting 0#16 (stalledSteps 4)).sched = stalledSteps 4 ++ [] :=
  ⟨inv_waiting _ _, by decide⟩

theorem witness_FinOfInitExchanges :
    ∀ k : BitVec 2, ∃ s : State, s.seq.phase = .fin ∧ s.seq.op = .init ∧ s.seq.step = k :=
  fun k => ⟨{ State.reset with seq := { seqAt .init k with phase := .fin } }, rfl, rfl, rfl⟩

/-- For FinOfReadPcStagesCounts and FinOfReadConcCommits: the FIN steps of MEASURE's two exchanges. -/
theorem witness_FinOfMeasure :
    ∀ k : BitVec 2, ∃ s : State, s.seq.phase = .fin ∧ s.seq.op = .measure ∧ s.seq.step = k :=
  fun k => ⟨{ State.reset with seq := { seqAt .measure k with phase := .fin } }, rfl, rfl, rfl⟩

theorem witness_SequencerAdvancesByOne :
    ∃ s u : State, (s.seq.phase = .fin ∧ curCmd s.seq = some .setCont ∧
        s.seq.step.toNat + 1 < (prog s.seq.op).length) ∧
      u.seq.phase = .fin ∧ curCmd u.seq = some .openCmd ∧
      (prog u.seq.op).length ≤ u.seq.step.toNat + 1 :=
  ⟨inExchange .setCont .fin 0#3 6#5 .quiet, inExchange .openCmd .fin 0#3 5#5 .quiet, by decide⟩

theorem witness_ChecksumOnlySetsItsFlag :
    ∃ s : State, s.seq.phase = .fin ∧ s.hw.hasCsum = true ∧ s.cfg.csumEn = true :=
  ⟨{ atCommit .quiet with cfg := { irqEn := false, csumEn := true, timeout := 0#16 } }, by decide⟩

theorem witness_ExchangeFrame :
    ∃ s t : State, exec .readConc s = .next t ∧ s.seq.phase = .fin :=
  ⟨atCommit .quiet, _, rfl, rfl⟩

theorem witness_InterpFields :
    ∃ a b c d : State, a.snap.workstatus.toNat = 3 ∧ b.snap.workstatus.toNat = 1 ∧
      c.snap.workstatus.toNat = 128 ∧ d.snap.workstatus.toNat ≠ 3 ∧ d.snap.workstatus.toNat ≠ 1 ∧
      d.snap.workstatus.toNat ≠ 128 :=
  ⟨{ State.reset with snap := { Snapshot.reset with workstatus := 3#8 } },
    { State.reset with snap := { Snapshot.reset with workstatus := 1#8 } },
    { State.reset with snap := { Snapshot.reset with workstatus := 128#8 } },
    { State.reset with snap := { Snapshot.reset with workstatus := 129#8 } }, by decide⟩

theorem witness_AlarmAndCalibrationBits :
    ∃ v w : Byte, v ≠ w ∧ v &&& 0x07#8 = w &&& 0x07#8 := ⟨0xFF#8, 0x07#8, by decide⟩

theorem witness_SnapshotChangesOnlyAtCommit :
    ∃ s t : State, step s = .next t ∧ (nextInputs s).rst = false ∧ t.snap ≠ s.snap :=
  ⟨atCommit .quiet, _, rfl, by decide, by decide⟩

theorem witness_InvariantKeptAndNeverStops :
    ∃ s : State, EngineInv s ∧ s.seq.phase = .fin :=
  ⟨atCommit .quiet, inv_of_reset_status (by decide) rfl rfl rfl, rfl⟩

theorem witness_SentStreamFollowsProgram :
    ∃ s t : State, EngineInv s ∧ SentOk s ∧ step s = .next t ∧ s.seq.phase = .tx :=
  ⟨{ inExchange .readConc .tx 2#3 0#5 readyInputs with
      link := { rxq := [], sent := frame .readPc ++ [0x11#8, 0x02#8] } }, _,
    inv_of_reset_status (by decide) rfl rfl rfl, by decide, rfl, rfl⟩

theorem witness_OneOperationAtATime :
    ∃ s t : State, EngineInv s ∧ busy s = true ∧ step s = .next t :=
  ⟨inExchange .readSerial .tx 2#3 0#5 (hostWr .cmd 0x02#32), _,
    inv_of_reset_status (by decide) rfl rfl rfl, by decide, rfl⟩

theorem witness_VariantIsFixed :
    ∃ s t : State, EngineInv s ∧ step s = .next t ∧ s.hw.hasCsum = false :=
  ⟨{ withoutCsum with sched := [hostWr .config 0xFFFFFFFF#32] }, _,
    { inv_withoutCsum with }, rfl, rfl⟩

theorem witness_UnwrittenBytesAreUnobservable :
    ∃ s t : State, EngineInv s ∧ SameButUnwritten s t ∧ s ≠ t :=
  ⟨inExchange .readPc .rx 0#3 7#5 .quiet,
    { inExchange .readPc .rx 0#3 7#5 .quiet with
      buf := (inExchange .readPc .rx 0#3 7#5 .quiet).buf.setIfInBounds 7 0xFF#8
      stg := { c05 := 1#32, c25 := 2#32, c10 := 3#32 } },
    inv_of_reset_status (by decide) rfl rfl rfl,
    { rest := rfl, buf := by decide, stg := by decide }, by decide⟩

theorem witness_ExchangeRunsToFin :
    ∃ (s : State) (reply : List Byte),
      s.seq = seqAt (progPlace .readPc).1 (progPlace .readPc).2 ∧
      reply.length = rlen .readPc ∧ s.link.rxq = reply ++ [0x99#8] ∧
      s.sched = readySteps (flen .readPc + rlen .readPc) ++ [] :=
  ⟨{ State.reset with
      seq := seqIn .readPc .tx 0#3 0#5, link := { rxq := replyPc ++ [0x99#8], sent := [] }
      sched := readySteps 24 }, replyPc, by decide⟩

theorem witness_InitRunsToCompletion :
    ∃ (s : State) (x : BitVec 24) (r₁ r₂ r₃ r₄ tail : List Byte), s.seq = Sequencer.idle ∧
      r₁.length = 5 ∧ r₂.length = 14 ∧ r₃.length = 6 ∧ r₄.length = 5 ∧
      s.link.rxq = r₁ ++ r₂ ++ r₃ ++ r₄ ++ tail ∧
      s.sched = writeInputs (regAddr .cmd) (cmdWordOf x 0x01#8) :: readySteps 55 ++ [] :=
  ⟨{ State.reset with
      link := { rxq := List.replicate 31 0x01#8, sent := [] }
      sched := writeInputs (regAddr .cmd) 0x01#32 :: readySteps 55 }, 0#24,
    List.replicate 5 0x01#8, List.replicate 14 0x01#8, List.replicate 6 0x01#8,
    List.replicate 5 0x01#8, [0x01#8], by decide⟩

/-- For MeasureRunsToCompletion and MeasureIsIdempotent: an idle state with two replies queued. -/
theorem witness_MeasureRunsToCompletion :
    ∃ (s : State) (x : BitVec 24) (pc conc tail : List Byte), s.seq = Sequencer.idle ∧
      pc.length = 20 ∧ conc.length = 20 ∧ s.link.rxq = pc ++ conc ++ tail ∧
      s.sched = writeInputs (regAddr .cmd) (cmdWordOf x 0x02#8) :: readySteps 50 ++ [] :=
  ⟨{ State.reset with
      link := { rxq := replyPc ++ replyConc ++ [0x99#8], sent := [] }
      sched := writeInputs (regAddr .cmd) 0x02#32 :: readySteps 50 }, 0#24, replyPc, replyConc,
    [0x99#8], by decide⟩

theorem witness_MeasureIsIdempotent :
    ∃ (s s' : State) (x : BitVec 24) (pc conc tail tail' : List Byte), s.seq = Sequencer.idle ∧
      s'.seq = Sequencer.idle ∧ pc.length = 20 ∧ conc.length = 20 ∧
      s.link.rxq = pc ++ conc ++ tail ∧ s'.link.rxq = pc ++ conc ++ tail' ∧
      s.sched = writeInputs (regAddr .cmd) (cmdWordOf x 0x02#8) :: readySteps 50 ++ [] ∧
      s'.sched = writeInputs (regAddr .cmd) (cmdWordOf x 0x02#8) :: readySteps 50 ++ [] ∧
      s.snap ≠ s'.snap :=
  ⟨{ State.reset with
      link := { rxq := replyPc ++ replyConc ++ [0x99#8], sent := [] }
      sched := writeInputs (regAddr .cmd) 0x02#32 :: readySteps 50 },
    { State.reset with
      snap := { Snapshot.reset with pm25 := 1000#16 }
      link := { rxq := replyPc ++ replyConc, sent := [] }
      sched := writeInputs (regAddr .cmd) 0x02#32 :: readySteps 50 }, 0#24, replyPc, replyConc,
    [0x99#8], [], by decide⟩

theorem witness_ErrorThenNextOperation : ∃ o : Op, o ≠ .none := ⟨.measure, by decide⟩

end Sys2Proof.Machine.Tests
end

section
/-! 00_scope.md: the variant and its validator bits over a step (R5, R202), and the two instruction spaces as the step
runs them (R7). -/

namespace Sys2Proof.Machine

/-! ### What a host operation or an exchange is of a step -/

/-- The host part of a cycle that writes an instruction's word to `CMD` is that instruction. -/
theorem hostPart_cmd {s : State} {i : Instr} (hsel : s.pins.hsel = true)
    (hwrite : s.pins.hwrite = true) (haddr : s.pins.haddr = regAddr .cmd)
    (hdec : decodeHostOp s.pins.hwdata = .instr i) : hostPart s = exec i s := by
  simp [hostPart, hsel, hwrite, haddr, hostWrite, cmdWrite, hdec]

/-- A step without reset is the host part, the engine part, then `irq`. -/
theorem step_of_rst_false {s : State} (hr : (nextInputs s).rst = false) :
    step s = andThen (andThen (hostPart (latch s)) enginePart) fun t => .next (driveIrq t) := by
  simp [step_eq, hr]

/-- Settles O7: the host part is `exec i`, by the case of a write to `CMD`. -/
theorem stepRunsHostOperation : Obligations.StepRunsHostOperation := by
  intro s i hr hsel hwrite haddr hdec
  rw [step_of_rst_false hr, hostPart_cmd (s := latch s) hsel hwrite haddr hdec]

/-- Settles O8: a frame decodes to its own exchange, which is what the engine part runs when busy. -/
theorem stepRunsExchange : Obligations.StepRunsExchange := by
  intro s u c i hr hu hp hc hdec
  obtain rfl : Instr.ofCmd c = i := by simpa [decode] using hdec
  rw [step_of_rst_false hr, hu, andThen_next, enginePart_busy hp hc]

/-! ### The validator bits

`CSUM_ERR` is set by the checksum check alone, and only while the validator is on. -/

@[simp] theorem stall_hw (c : WireCmd) (ph : Phase) (n : BitVec 5) (s : State) :
    (stall c ph n s).hw = s.hw := by
  rw [(stall_frame c ph n s).1]

@[simp] theorem stall_cfg (c : WireCmd) (ph : Phase) (n : BitVec 5) (s : State) :
    (stall c ph n s).cfg = s.cfg := by
  rw [(stall_frame c ph n s).1]

@[simp] theorem stall_csumErr (c : WireCmd) (ph : Phase) (n : BitVec 5) (s : State) :
    (stall c ph n s).status.csumErr = s.status.csumErr := by
  rcases stall_cases c ph n s with ⟨-, e⟩ | ⟨-, -, e⟩ | ⟨-, e⟩ <;> simp [e]

@[simp] theorem seqAdvance_hw (s : State) : (seqAdvance s).hw = s.hw := by
  rw [(seqAdvance_frame s).1]

@[simp] theorem seqAdvance_cfg (s : State) : (seqAdvance s).cfg = s.cfg := by
  rw [(seqAdvance_frame s).1]

@[simp] theorem seqAdvance_csumErr (s : State) :
    (seqAdvance s).status.csumErr = s.status.csumErr := by
  rw [(seqAdvance_frame s).1]

@[simp] theorem postOf_hw (c : WireCmd) (s : State) : (postOf c s).hw = s.hw := by
  cases c <;> rfl

@[simp] theorem postOf_cfg (c : WireCmd) (s : State) : (postOf c s).cfg = s.cfg := by
  cases c <;> rfl

@[simp] theorem postOf_csumErr (c : WireCmd) (s : State) :
    (postOf c s).status.csumErr = s.status.csumErr := by
  cases c <;> rfl

/-- The check does nothing while the validator is off. -/
theorem csumCheck_of_off {n : Nat} {s : State} (h : csumOn s = false) : csumCheck n s = s := by
  simp [csumCheck, h]

@[simp] theorem csumCheck_hw (n : Nat) (s : State) : (csumCheck n s).hw = s.hw := by
  rw [csumCheck_eq]

@[simp] theorem csumCheck_cfg (n : Nat) (s : State) : (csumCheck n s).cfg = s.cfg := by
  rw [csumCheck_eq]

@[simp] theorem finStep_hw (c : WireCmd) (s : State) : (finStep c (postOf c) s).hw = s.hw := by
  simp [finStep]

@[simp] theorem finStep_cfg (c : WireCmd) (s : State) : (finStep c (postOf c) s).cfg = s.cfg := by
  simp [finStep]

/-- With the validator off a FIN step keeps `CSUM_ERR`. -/
theorem finStep_csumErr_of_off {c : WireCmd} {s : State} (h : csumOn s = false) :
    (finStep c (postOf c) s).status.csumErr = s.status.csumErr := by
  simp [finStep, csumCheck_of_off h]

/-- The engine part writes neither the variant nor `CONFIG`. -/
theorem EngineEffect.hw_cfg {c : WireCmd} {s t : State} (h : EngineEffect c s t) :
    t.hw = s.hw ∧ t.cfg = s.cfg := by
  cases h <;> simp

/-- With the validator off no engine part changes `CSUM_ERR`. -/
theorem EngineEffect.csumErr_of_off {c : WireCmd} {s t : State} (h : EngineEffect c s t)
    (hoff : csumOn s = false) : t.status.csumErr = s.status.csumErr := by
  cases h with
  | fin => exact finStep_csumErr_of_off hoff
  | txError | txAccept | txStall | rxTake | rxStall => simp

/-- No host part writes the variant. -/
theorem HostEffect.hw {s t : State} (h : HostEffect s t) : t.hw = s.hw := by
  cases h <;> rfl

/-- Without a validator its two bits are 0 (42_decode_and_status.md R202), as `EngineInv` says. -/
def ValidatorBitsClear (s : State) : Prop :=
  s.hw.hasCsum = false → s.cfg.csumEn = false ∧ s.status.csumErr = false

/-- A `CONFIG` write masks `CSUM_EN` with the variant, a `STATUS` write only clears, and starting an operation
clears `CSUM_ERR`; no other host part touches the two bits. -/
theorem HostEffect.validatorBitsClear {s t : State} (h : HostEffect s t)
    (hs : ValidatorBitsClear s) : ValidatorBitsClear t := by
  intro hw
  obtain ⟨hen, herr⟩ := hs (h.hw ▸ hw)
  cases h with
  | config d => exact ⟨by simp [configWrite, show s.hw.hasCsum = false from hw], herr⟩
  | status d => exact ⟨hen, by simp [statusWrite, herr]⟩
  | start o ho hi => exact ⟨hen, rfl⟩
  | nothing | read | reject | abort => exact ⟨hen, herr⟩

/-- The engine part leaves the validator off, so it keeps both bits. -/
theorem EngineEffect.validatorBitsClear {c : WireCmd} {s t : State} (h : EngineEffect c s t)
    (hs : ValidatorBitsClear s) : ValidatorBitsClear t := by
  intro hw
  obtain ⟨ehw, ecfg⟩ := h.hw_cfg
  have hw' : s.hw.hasCsum = false := ehw ▸ hw
  obtain ⟨hen, herr⟩ := hs hw'
  exact ⟨ecfg ▸ hen, (h.csumErr_of_off (by simp [csumOn, hw'])).trans herr⟩

/-- A step keeps the variant, and keeps the validator's bits 0 where there is none. -/
theorem step_keeps_variant {s t : State} (h : step s = .next t) :
    t.hw = s.hw ∧ (ValidatorBitsClear s → ValidatorBitsClear t) := by
  rcases step_effect h with ⟨-, rfl⟩ | ⟨-, u, v, hu, -, hv, rfl⟩
  · exact ⟨rfl, fun _ _ => ⟨rfl, rfl⟩⟩
  · rcases enginePart_effect hv with ⟨-, rfl⟩ | ⟨c, -, -, hc⟩
    · exact ⟨hu.hw, hu.validatorBitsClear⟩
    · exact ⟨hc.hw_cfg.1.trans hu.hw, fun hs => hc.validatorBitsClear (hu.validatorBitsClear hs)⟩

/-- Bit 6 of `STATUS` as read is `CSUM_ERR` (10_state.md R23). -/
theorem hostRead_status_csumErr (s : State) :
    (hostRead (regAddr .status) s).getLsbD 6 = s.status.csumErr := by
  simp only [hostRead, regAt_regAddr, statusWord]
  iterate 7 rw [BitVec.getLsbD_append]
  simp

/-- Bit 1 of `CONFIG` as read is `CSUM_EN` (10_state.md R22). -/
theorem hostRead_config_csumEn (s : State) :
    (hostRead (regAddr .config) s).getLsbD 1 = s.cfg.csumEn := by
  simp only [hostRead, regAt_regAddr, configWord]
  iterate 2 rw [BitVec.getLsbD_append]
  simp

/-- Settles O52: the two bits are an invariant of every step, and the host reads them as stored. -/
theorem variantIsFixed : Obligations.VariantIsFixed := by
  intro s t hinv h
  obtain ⟨hhw, hkeep⟩ := step_keeps_variant h
  refine ⟨hhw, fun hw => ?_⟩
  obtain ⟨hen, herr⟩ := hkeep hinv.noValidator (hhw ▸ hw)
  exact ⟨hen, herr, (hostRead_status_csumErr t).trans herr, (hostRead_config_csumEn t).trans hen⟩

end Sys2Proof.Machine
end

section
/-! 10_state.md: the invariant of reachable states over a step (R29 to R33), and which bytes no rule reads (R39); the
outputs of a step (R40), the registers at reset (R38), and the fields of the words the host reads (R22, R23, R28, R37). -/
namespace Sys2Proof.Machine

/-! ### What the invariant says of STATUS alone -/

/-- The fields of `STATUS` agree with each other: the part of `EngineInv` that is about `STATUS` alone. -/
structure StatusReg.Consistent (r : StatusReg) : Prop where
  oneEnd : r.done = true → r.err = false
  errCode : r.err = true ↔ r.errCode ≠ .none
  noRecord : r.errCode = .none → r.errCmd = 0#3 ∧ r.errPhase = .idle ∧ r.errCount = 0#5
  record : r.errCode ≠ .none →
    r.errCmd.toNat < 6 ∧ r.errPhase ≠ .idle ∧ r.errCount.toNat ≤ 20
  recordPhase : (r.errCode = .transportError → r.errPhase = .tx) ∧
    (r.errPhase = .fin → r.errCode = .aborted)
  rejCause : r.reject = true ↔ r.rejCause ≠ .none

theorem EngineInv.statusConsistent {s : State} (h : EngineInv s) : s.status.Consistent :=
  { h with }

/-- With no error and no record of one, what remains is the refusal and its cause. -/
theorem StatusReg.Consistent.of_no_error {r : StatusReg} (he : r.err = false)
    (hc : r.errCode = .none) (hm : r.errCmd = 0#3) (hp : r.errPhase = .idle)
    (hn : r.errCount = 0#5) (hr : r.reject = true ↔ r.rejCause ≠ .none) : r.Consistent where
  oneEnd _ := he
  errCode := by simp [he, hc]
  noRecord _ := ⟨hm, hp, hn⟩
  record h := absurd hc h
  recordPhase := by simp [hc, hp]
  rejCause := hr

theorem StatusReg.consistent_reset : StatusReg.reset.Consistent :=
  .of_no_error rfl rfl rfl rfl rfl (by decide)

/-- A `STATUS` write with bit 2 = 0 leaves `ERR` and its record. -/
theorem statusWrite_status_of_keep_err {s : State} {d : Word} (h : d.getLsbD 2 = false) :
    (statusWrite d s).status =
      { s.status with
        done := s.status.done && !d.getLsbD 1
        reject := (statusWrite d s).status.reject
        rejCause := (statusWrite d s).status.rejCause
        csumErr := (statusWrite d s).status.csumErr } := by
  simp [statusWrite, h, -BitVec.getLsbD_eq_getElem]

/-- A `STATUS` write clears `ERR` together with its record, and `REJECT` together with its cause. -/
theorem statusWrite_consistent {s : State} (d : Word) (h : s.status.Consistent) :
    (statusWrite d s).status.Consistent := by
  have hrej : (statusWrite d s).status.reject = true ↔ (statusWrite d s).status.rejCause ≠ .none := by
    cases h5 : d.getLsbD 5 <;> simp [statusWrite, h5, h.rejCause, -BitVec.getLsbD_eq_getElem]
  cases h2 : d.getLsbD 2 with
  | true =>
    apply StatusReg.Consistent.of_no_error _ _ _ _ _ hrej <;>
      simp [statusWrite, h2, -BitVec.getLsbD_eq_getElem]
  | false =>
    rw [statusWrite_status_of_keep_err h2]
    exact { h with oneEnd := fun hd => h.oneEnd (Bool.and_elim_left hd), rejCause := hrej }

/-! ### The invariant, part by part -/

/-- The invariant is a statement about the variant, `CONFIG`, `STATUS`, the snapshot and the sequencer. -/
theorem EngineInv.congr {s t : State} (h : EngineInv s) (hw : t.hw = s.hw) (hc : t.cfg = s.cfg)
    (hs : t.status = s.status) (hn : t.snap = s.snap) (hq : t.seq = s.seq) : EngineInv t := by
  obtain ⟨⟩ := t
  obtain ⟨⟩ := s
  simp only at hw hc hs hn hq
  subst hw hc hs hn hq
  exact { h with }

/-- A step within a running operation moves the sequencer to a position of the same operation, and none of the
registers the invariant speaks of. -/
theorem EngineInv.move {s t : State} (h : EngineInv s) (hb : s.seq.phase ≠ .idle) (hw : t.hw = s.hw)
    (hc : t.cfg = s.cfg) (hs : t.status = s.status) (hn : t.snap = s.snap)
    (hq : seqOk t.seq = true) (hop : t.seq.op = s.seq.op) : EngineInv t where
  seq := hq
  busyClear _ := hs ▸ h.busyClear (busy_iff.mpr hb)
  oneEnd := hs ▸ h.oneEnd
  errCode := hs ▸ h.errCode
  noRecord := hs ▸ h.noRecord
  record := hs ▸ h.record
  recordPhase := hs ▸ h.recordPhase
  rejCause := hs ▸ h.rejCause
  initRunning := hs ▸ hop ▸ h.initRunning
  noValidator := hw ▸ hc ▸ hs ▸ h.noValidator
  noSnapshot := hs ▸ hn ▸ h.noSnapshot

/-- An idle engine: what remains of the invariant is about registers alone. -/
theorem EngineInv.of_idle {s : State} (hq : s.seq = Sequencer.idle) (hs : s.status.Consistent)
    (hv : ValidatorBitsClear s) (hn : s.status.valid = false → s.snap = Snapshot.reset) :
    EngineInv s :=
  { hs with
    seq := by simp [hq]
    busyClear := by simp [busy, hq]
    initRunning := by simp [hq]
    noValidator := hv
    noSnapshot := hn }

/-- The sequencer and the registers at their reset values, in either variant. -/
theorem EngineInv.of_reset {s : State} (hq : s.seq = Sequencer.idle) (hs : s.status = .reset)
    (hn : s.snap = .reset) (hc : s.cfg.csumEn = false) : EngineInv s :=
  .of_idle hq (hs ▸ StatusReg.consistent_reset) (fun _ => ⟨hc, by simp [hs, StatusReg.reset]⟩)
    fun _ => hn

/-- Settles O48: the reset state is idle with its registers at their reset values, and has sent nothing. -/
theorem invariantAtReset : Obligations.InvariantAtReset :=
  ⟨.of_reset rfl rfl rfl rfl, by decide⟩

/-! ### The invariant over each operation -/

theorem cmdId_lt (c : WireCmd) : (cmdId c).toNat < 6 := by cases c <;> decide

/-- Error entry ends a running operation: `ERR` comes with a record in range, and `DONE` was 0. -/
theorem raiseError_inv {code : ErrCode} {c : WireCmd} {ph : Phase} {n : BitVec 5} {s : State}
    (h : EngineInv s) (hb : s.seq.phase ≠ .idle) (hcode : code ≠ .none) (hph : ph ≠ .idle)
    (hn : n.toNat ≤ 20) (htx : code = .transportError → ph = .tx)
    (hfin : ph = .fin → code = .aborted) : EngineInv (raiseError code c ph n s) := by
  obtain ⟨hdone, -⟩ := h.busyClear (busy_iff.mpr hb)
  refine .of_idle rfl ?_ h.noValidator h.noSnapshot
  exact {
    oneEnd := by simp [hdone]
    errCode := by simpa using hcode
    noRecord := fun hc => absurd hc hcode
    record := fun _ => ⟨cmdId_lt c, hph, hn⟩
    recordPhase := ⟨htx, hfin⟩
    rejCause := h.rejCause }

/-- Starting an operation clears the record of the last one. -/
theorem startOp_inv {o : Op} {s : State} (h : EngineInv s) (ho : o ≠ .none) :
    EngineInv (startOp o s) := by
  have hs : (startOp o s).status.Consistent := .of_no_error rfl rfl rfl rfl rfl h.rejCause
  exact { hs with
    seq := by
      cases o with
      | none => exact absurd rfl ho
      | init => exact seqOk_seqAt .close
      | measure => exact seqOk_seqAt .readPc
    busyClear := fun _ => ⟨rfl, rfl⟩
    initRunning := fun hi => by simp [startOp, show o = .init from hi]
    noValidator := fun hw => ⟨(h.noValidator hw).1, rfl⟩
    noSnapshot := h.noSnapshot }

/-- An aborted operation has moved at most a whole reply in its phase. -/
theorem abortCount_le {q : Sequencer} {c : WireCmd} (hq : seqOk q = true) (hc : curCmd q = some c)
    (hp : q.phase ≠ .idle) : (abortCount q).toNat ≤ 20 := by
  obtain ⟨htx, hrx, hfin⟩ := seqOk_counters hq hc
  have := flen_le c
  have := rlen_le c
  cases h : q.phase with
  | idle => exact absurd h hp
  | tx =>
    have := (htx h).1
    simp only [abortCount, h, if_true, BitVec.toNat_setWidth]
    omega
  | rx =>
    have := (hrx h).2
    simp only [abortCount, h, reduceCtorEq, if_false]
    omega
  | fin =>
    have := (hfin h).2.1
    simp only [abortCount, h, reduceCtorEq, if_false]
    omega

/-- Every host part keeps the invariant. -/
theorem HostEffect.inv {s t : State} (he : HostEffect s t) (h : EngineInv s) : EngineInv t := by
  have hv := he.validatorBitsClear h.noValidator
  cases he with
  | nothing => exact h
  | read v => exact h.congr rfl rfl rfl rfl rfl
  | config d => exact { h with noValidator := hv }
  | status d =>
    exact { statusWrite_consistent d h.statusConsistent with
      seq := h.seq
      busyClear := fun hb => by
        obtain ⟨hdone, herr⟩ := h.busyClear hb
        simp [statusWrite, hdone, herr]
      initRunning := h.initRunning
      noValidator := hv
      noSnapshot := h.noSnapshot }
  | reject cause hc => exact { h with rejCause := by simpa using hc }
  | start o ho _ => exact startOp_inv h ho
  | abort c hp hc =>
    exact raiseError_inv h hp (by decide) hp (abortCount_le h.seq hc hp) (fun e => by cases e)
      fun _ => rfl

/-- A stall in TX or RX counts within a 16-bit timeout, or ends the operation. -/
theorem stall_inv {c : WireCmd} {n : BitVec 5} {s : State} (h : EngineInv s)
    (hp : s.seq.phase = .tx ∨ s.seq.phase = .rx) (hn : n.toNat ≤ 20) :
    EngineInv (stall c s.seq.phase n s) := by
  have hb : s.seq.phase ≠ .idle := by rcases hp with hp | hp <;> simp [hp]
  rcases stall_cases c s.seq.phase n s with ⟨-, e⟩ | ⟨-, -, e⟩ | ⟨hlt, e⟩ <;> rw [e]
  · exact h
  · exact raiseError_inv h hb (by decide) hb hn (by simp) fun hf => by simp [hf] at hp
  · refine h.move hb rfl rfl rfl rfl ?_ rfl
    obtain ⟨d, hd⟩ := curCmd_of_busy h.seq hb
    obtain ⟨htx, hrx, -⟩ := seqOk_counters h.seq hd
    have := s.cfg.timeout.isLt
    refine seqOk_of (c := d) ((curCmd_congr rfl rfl).trans hd) ?_ ?_
    · simp only [BitVec.toNat_add, BitVec.toNat_ofNat]
      omega
    · exact hp.imp (fun hp => ⟨hp, htx hp⟩) fun hp => .inl ⟨hp, hrx hp⟩

/-- An accepted byte leaves the operation. -/
theorem txAccept_op (c : WireCmd) (b : Byte) (s : State) : (txAccept c b s).seq.op = s.seq.op := by
  by_cases h : s.seq.txIdx.toNat + 1 = flen c
  · rw [txAccept_seq_last h]
  · rw [txAccept_seq_more h]

/-- The sequencer after an accepted byte is at the next byte of the frame, or at the start of the reply. -/
theorem txAccept_seqOk {c : WireCmd} {b : Byte} {s : State} (hq : seqOk s.seq = true)
    (hc : curCmd s.seq = some c) (hp : s.seq.phase = .tx) : seqOk (txAccept c b s).seq = true := by
  obtain ⟨hlt, hrx⟩ := (seqOk_counters hq hc).1 hp
  have := flen_le c
  by_cases hl : s.seq.txIdx.toNat + 1 = flen c
  · rw [txAccept_seq_last hl]
    exact seqOk_of ((curCmd_congr rfl rfl).trans hc) (by simp) (.inr (.inl ⟨rfl, rfl, rlen_pos c⟩))
  · rw [txAccept_seq_more hl]
    refine seqOk_of ((curCmd_congr rfl rfl).trans hc) (by simp) (.inl ⟨hp, ?_, hrx⟩)
    simp only [BitVec.toNat_add, BitVec.toNat_ofNat]
    omega

/-- The count of reply bytes does not wrap: a reply is shorter than 32 bytes. -/
theorem toNat_succ_of_lt_rlen {k : BitVec 5} {c : WireCmd} (h : k.toNat < rlen c) :
    (k + 1#5).toNat = k.toNat + 1 := by
  have := rlen_le c
  simp only [BitVec.toNat_add, BitVec.toNat_ofNat]
  omega

/-- The sequencer after a taken byte is at the next byte of the reply, or at its end. -/
theorem rxTake_seqOk {c : WireCmd} {b : Byte} {rest : List Byte} {s : State}
    (hq : seqOk s.seq = true) (hc : curCmd s.seq = some c) (hp : s.seq.phase = .rx) :
    seqOk (rxTake c b rest s).seq = true := by
  obtain ⟨htx, hlt⟩ := (seqOk_counters hq hc).2.1 hp
  have hk := toNat_succ_of_lt_rlen hlt
  rw [rxTake_seq]
  refine seqOk_of ((curCmd_congr rfl rfl).trans hc) (by simp) (.inr ?_)
  by_cases hl : s.seq.rxCnt.toNat + 1 = rlen c
  · exact .inr ⟨by simp [hl], htx, hk.trans hl, rfl⟩
  · exact .inl ⟨by simp [hl, hp], htx, by rw [hk]; omega⟩

@[simp] theorem csumCheck_seq (n : Nat) (s : State) : (csumCheck n s).seq = s.seq := by
  rw [csumCheck_eq]

@[simp] theorem postOf_seq (c : WireCmd) (s : State) : (postOf c s).seq = s.seq := by
  cases c <;> rfl

/-- The checksum check sets `CSUM_ERR` only where there is a validator. -/
theorem csumCheck_inv {n : Nat} {s : State} (h : EngineInv s) : EngineInv (csumCheck n s) := by
  rw [csumCheck_eq]
  exact { h with
    noValidator := fun hw => by
      obtain ⟨hen, herr⟩ := h.noValidator hw
      simp [csumOn, hen, herr] }

/-- The decoder writes staging registers, or a snapshot that is `VALID` from then on. -/
theorem postOf_inv {c : WireCmd} {s : State} (h : EngineInv s) : EngineInv (postOf c s) := by
  cases c with
  | close | readSerial | openCmd | setCont => exact h
  | readPc => exact h.congr rfl rfl rfl rfl rfl
  | readConc => exact { h with noSnapshot := fun hv => nomatch (hv : true = false) }

/-- The sequencer goes on to an exchange of the program, or the operation ends with `DONE`. -/
theorem seqAdvance_inv {s : State} (h : EngineInv s) (hb : s.seq.phase ≠ .idle) :
    EngineInv (seqAdvance s) := by
  obtain ⟨-, herr⟩ := h.busyClear (busy_iff.mpr hb)
  rcases seqAdvance_cases s with ⟨hlt, e⟩ | ⟨-, e⟩ <;> rw [e]
  · refine h.move hb rfl rfl rfl rfl ?_ rfl
    have hstep : (s.seq.step + 1#2).toNat = s.seq.step.toNat + 1 := by
      have : (prog s.seq.op).length ≤ 4 := by cases s.seq.op <;> decide
      simp only [BitVec.toNat_add, BitVec.toNat_ofNat]
      omega
    have hc : curCmd (exchStart { s.seq with step := s.seq.step + 1#2 }) =
        some (prog s.seq.op)[s.seq.step.toNat + 1] := by
      simp [curCmd, hstep, hlt]
    exact seqOk_of hc (by simp) (.inl ⟨rfl, flen_pos _, rfl⟩)
  · exact .of_idle rfl { h.statusConsistent with oneEnd := fun _ => herr } h.noValidator h.noSnapshot

/-- Every engine part keeps the invariant. -/
theorem EngineEffect.inv {c : WireCmd} {s t : State} (he : EngineEffect c s t)
    (hc : curCmd s.seq = some c) (h : EngineInv s) : EngineInv t := by
  have hoffer : ∀ b, EngineInv (txOffer b s) := fun b => h.congr rfl rfl rfl rfl rfl
  have htx : (s.seq.txIdx.setWidth 5).toNat ≤ 20 := by
    rw [BitVec.toNat_setWidth]
    omega
  cases he with
  | txError b hp =>
    exact raiseError_inv (hoffer b) (by simp [hp]) (by decide) (by decide) htx (fun _ => rfl) (by simp)
  | txAccept b hp =>
    exact h.move (by simp [hp]) (by simp) (by simp) (by simp) (by simp)
      (txAccept_seqOk (s := txOffer b s) h.seq hc hp) (txAccept_op ..)
  | txStall b hp =>
    have := stall_inv (c := c) (hoffer b) (.inl hp) htx
    rwa [txOffer_seq, hp] at this
  | rxTake b rest hp =>
    exact h.move (by simp [hp]) rfl rfl rfl rfl (rxTake_seqOk h.seq hc hp) rfl
  | rxStall hp hk =>
    have := rlen_le c
    have := stall_inv (c := c) h (.inr hp) (n := s.seq.rxCnt) (by omega)
    rwa [hp] at this
  | fin hp =>
    exact seqAdvance_inv (postOf_inv (csumCheck_inv h)) (by simp [hp])

/-- The engine part of an idle engine is nothing, of a running one a step of its exchange. -/
theorem enginePart_inv {s t : State} (h : EngineInv s) (ht : enginePart s = .next t) :
    EngineInv t := by
  rcases enginePart_effect ht with ⟨-, rfl⟩ | ⟨c, -, hc, he⟩
  · exact h
  · exact he.inv hc h

/-- A step without reset, from the invariant: a host part and an engine part that both answer. -/
theorem step_parts {s : State} (h : EngineInv s) (hr : (nextInputs s).rst = false) :
    ∃ u v, hostPart (latch s) = .next u ∧ EngineInv u ∧ enginePart u = .next v ∧
      step s = .next (driveIrq v) := by
  have hl : EngineInv (latch s) := h.congr rfl rfl rfl rfl rfl
  obtain ⟨u, hu⟩ := hostPart_next hl.seq
  have hui : EngineInv u := (hostPart_effect hu).inv hl
  obtain ⟨v, hv⟩ := enginePart_next hui.seq
  exact ⟨u, v, hu, hui, hv, by simp [step_of_rst_false hr, hu, hv]⟩

/-- Settles O49: a reset step ends at the reset values; otherwise the host part and the engine part both answer,
and each keeps the invariant. -/
theorem invariantKeptAndNeverStops : Obligations.InvariantKeptAndNeverStops := by
  intro s h
  cases hr : (nextInputs s).rst with
  | true => exact ⟨resetCycle (latch s), by simp [step_eq, hr], .of_reset rfl rfl rfl rfl⟩
  | false =>
    obtain ⟨u, v, -, hu, hv, hstep⟩ := step_parts h hr
    exact ⟨driveIrq v, hstep, (enginePart_inv hu hv).congr rfl rfl rfl rfl rfl⟩

/-! ### Bytes and staging registers no rule reads -/

/-- The state with another response buffer and other staging registers. -/
def setUnread (b : Buffer) (g : Staging) (s : State) : State :=
  { s with buf := b, stg := g }

section
variable (b : Buffer) (g : Staging) (s : State)

@[simp] theorem setUnread_cfg : (setUnread b g s).cfg = s.cfg := rfl
@[simp] theorem setUnread_seq : (setUnread b g s).seq = s.seq := rfl
@[simp] theorem setUnread_buf : (setUnread b g s).buf = b := rfl
@[simp] theorem setUnread_stg : (setUnread b g s).stg = g := rfl
@[simp] theorem setUnread_link : (setUnread b g s).link = s.link := rfl
@[simp] theorem setUnread_pins : (setUnread b g s).pins = s.pins := rfl

end

/-- An operation that neither reads nor writes `buf` and the staging registers, whether it answers or stops. -/
def CommutesWithUnread (f : State → Host.Outcome State Fault Refusal) : Prop :=
  ∀ (b : Buffer) (g : Staging) (s : State),
    f (setUnread b g s) = andThen (f s) fun t => .next (setUnread b g t)

/-- What every host register reads depends on the registers and the sequencer alone. -/
@[simp] theorem hostRead_setUnread (a : BitVec 6) (b : Buffer) (g : Staging) (s : State) :
    hostRead a (setUnread b g s) = hostRead a s := rfl

theorem startOrReject_setUnread (o : Op) (b : Buffer) (g : Staging) (s : State) :
    startOrReject o (setUnread b g s) = setUnread b g (startOrReject o s) := by
  simp only [startOrReject, apply_ite (setUnread b g)]
  rfl

theorem execAbort_setUnread (x : BitVec 24) : CommutesWithUnread (execAbort x) := by
  intro b g s
  by_cases hb : s.seq.phase = .idle
  · simp [execAbort, busy, hb]
  · cases hc : curCmd s.seq <;> simp [execAbort, busy, hb, hc]
    rfl

/-- The four host operations read neither `buf` nor a staging register. -/
theorem exec_hostOp_setUnread {d : Word} {i : Instr} (h : decodeHostOp d = .instr i) :
    CommutesWithUnread (exec i) := by
  intro b g s
  rcases decodeHostOp_cases h with ⟨x, rfl⟩ | ⟨x, rfl⟩ | ⟨x, rfl⟩ | ⟨x, rfl⟩
  · rfl
  · exact congrArg _ (startOrReject_setUnread .init b g s)
  · exact congrArg _ (startOrReject_setUnread .measure b g s)
  · exact execAbort_setUnread x b g s

theorem hostWrite_setUnread (a : BitVec 6) (d : Word) : CommutesWithUnread (hostWrite a d) := by
  intro b g s
  unfold hostWrite
  split
  · unfold cmdWrite
    split
    · next i hi => exact exec_hostOp_setUnread hi b g s
    · rfl
  all_goals rfl

theorem hostPart_setUnread : CommutesWithUnread hostPart := by
  intro b g s
  cases hsel : s.pins.hsel with
  | false => simp [hostPart, hsel]
  | true =>
    cases hwr : s.pins.hwrite with
    | true => simpa [hostPart, hsel, hwr] using hostWrite_setUnread _ _ b g s
    | false =>
      simp only [hostPart, setUnread_pins, hsel, hwr]
      rfl

theorem stall_setUnread (c : WireCmd) (ph : Phase) (n : BitVec 5) (b : Buffer) (g : Staging)
    (s : State) : stall c ph n (setUnread b g s) = setUnread b g (stall c ph n s) := by
  simp only [stall, apply_ite (setUnread b g)]
  rfl

theorem txOffer_setUnread (x : Byte) (b : Buffer) (g : Staging) (s : State) :
    txOffer x (setUnread b g s) = setUnread b g (txOffer x s) := rfl

theorem txStep_setUnread (c : WireCmd) : CommutesWithUnread (txStep c) := by
  intro b g s
  cases hx : (frame c)[s.seq.txIdx.toNat]? with
  | none => simp [txStep, hx]
  | some x =>
    cases he : s.pins.txErr with
    | true =>
      simp only [txStep, setUnread_seq, setUnread_pins, hx, he]
      rfl
    | false =>
      cases hr : s.pins.txReady with
      | true =>
        simp only [txStep, setUnread_seq, setUnread_pins, hx, he, hr]
        rfl
      | false =>
        simp [txStep, hx, he, hr, txOffer_setUnread, stall_setUnread]

theorem seqAdvance_setUnread (b : Buffer) (g : Staging) (s : State) :
    seqAdvance (setUnread b g s) = setUnread b g (seqAdvance s) := by
  simp only [seqAdvance, apply_ite (setUnread b g)]
  rfl

/-- The checksum check reads the first `n` bytes of the buffer. -/
theorem csumCheck_setUnread {n : Nat} {b : Buffer} {s : State} (g : Staging)
    (h : bufTake s.buf n = bufTake b n) :
    csumCheck n (setUnread b g s) = setUnread b g (csumCheck n s) := by
  simp only [csumCheck_eq, replySum, setUnread_buf, h]
  rfl

/-- `r` reads no byte of `buf` and no staging register that `q` does not. -/
structure ReadsNoMore (q r : Sequencer) : Prop where
  rxCnt : r.rxCnt.toNat ≤ q.rxCnt.toNat
  stg : r.op = .measure → r.step = 1#2 → q.op = .measure ∧ q.step = 1#2

theorem ReadsNoMore.of_eq {q r : Sequencer} (h : r.rxCnt = q.rxCnt) (ho : r.op = q.op)
    (hs : r.step = q.step) : ReadsNoMore q r :=
  ⟨by rw [h], fun h1 h2 => ⟨ho ▸ h1, hs ▸ h2⟩⟩

/-- At the first byte of a frame no byte of `buf` is read, and staging registers only in MEASURE's second
exchange. -/
theorem ReadsNoMore.of_start {q r : Sequencer} (h : r.rxCnt = 0#5)
    (hs : r.op = .measure → r.step ≠ 1#2) : ReadsNoMore q r :=
  ⟨by simp [h], fun h1 h2 => absurd h2 (hs h1)⟩

theorem readsNoMore_idle (q : Sequencer) : ReadsNoMore q Sequencer.idle :=
  .of_start rfl (by simp)

/-- Buffers that agree in their first `n` bytes agree in fewer. -/
theorem bufTake_congr_of_le {a b : Buffer} {m n : Nat} (h : bufTake a n = bufTake b n) (hm : m ≤ n) :
    bufTake a m = bufTake b m := by
  have := congrArg (List.take m) h
  simpa [bufTake, List.take_take, Nat.min_eq_left hm] using this

/-- Buffers that agree in all 20 bytes are equal. -/
theorem eq_of_bufTake {a b : Buffer} (h : bufTake a 20 = bufTake b 20) : a = b := by
  simpa [bufTake, List.take_of_length_le, Vector.toList_inj] using h

/-- A byte stored at index `k` follows the first `k` bytes. -/
theorem bufTake_setIfInBounds {b : Buffer} {k : Nat} (x : Byte) (hk : k < 20) :
    bufTake (b.setIfInBounds k x) (k + 1) = bufTake b k ++ [x] := by
  simp [bufTake, List.take_add_one, List.take_set_of_le, hk]

/-! ### States that differ only there, over each part of a step -/

theorem SameButUnwritten.refl (s : State) : SameButUnwritten s s := ⟨rfl, rfl, fun _ _ => rfl⟩

section
variable {s t : State}

theorem SameButUnwritten.eq_setUnread (h : SameButUnwritten s t) : t = setUnread t.buf t.stg s :=
  h.rest

/-- Two such states drive the same, hold the same streams, and read the same at every address. -/
theorem SameButUnwritten.observed (h : SameButUnwritten s t) :
    s.out = t.out ∧ s.link = t.link ∧ ∀ a : BitVec 6, hostRead a s = hostRead a t := by
  rw [h.rest]
  exact ⟨rfl, rfl, fun a => (hostRead_setUnread a t.buf t.stg s).symm⟩

/-- A next state that wrote neither `buf` nor a staging register and reads no more of them. -/
theorem SameButUnwritten.after {u : State} (h : SameButUnwritten s t) (hb : u.buf = s.buf)
    (hg : u.stg = s.stg) (hr : ReadsNoMore s.seq u.seq) :
    SameButUnwritten u (setUnread t.buf t.stg u) where
  rest := rfl
  buf := by
    rw [hb]
    exact bufTake_congr_of_le h.buf hr.rxCnt
  stg h1 h2 := by
    obtain ⟨ho, hs⟩ := hr.stg h1 h2
    exact hg.trans (h.stg ho hs)

/-- The host part writes neither, and starts or ends an operation or leaves the sequencer. -/
theorem HostEffect.unread (h : HostEffect s t) :
    t.buf = s.buf ∧ t.stg = s.stg ∧ ReadsNoMore s.seq t.seq := by
  cases h with
  | start o => exact ⟨rfl, rfl, .of_start rfl (by simp)⟩
  | abort => exact ⟨rfl, rfl, readsNoMore_idle _⟩
  | nothing | read | config | status | reject => exact ⟨rfl, rfl, .of_eq rfl rfl rfl⟩

theorem hostPart_same {u : State} (h : SameButUnwritten s t) (hu : hostPart s = .next u) :
    ∃ u', hostPart t = .next u' ∧ SameButUnwritten u u' := by
  obtain ⟨hb, hg, hr⟩ := (hostPart_effect hu).unread
  refine ⟨setUnread t.buf t.stg u, ?_, h.after hb hg hr⟩
  rw [h.eq_setUnread, hostPart_setUnread, hu]
  rfl

theorem stall_unread (c : WireCmd) (ph : Phase) (n : BitVec 5) (s : State) :
    (stall c ph n s).buf = s.buf ∧ (stall c ph n s).stg = s.stg ∧
      ReadsNoMore s.seq (stall c ph n s).seq := by
  rcases stall_cases c ph n s with ⟨-, e⟩ | ⟨-, -, e⟩ | ⟨-, e⟩ <;> rw [e]
  · exact ⟨rfl, rfl, .of_eq rfl rfl rfl⟩
  · exact ⟨rfl, rfl, readsNoMore_idle _⟩
  · exact ⟨rfl, rfl, .of_eq rfl rfl rfl⟩

theorem txAccept_readsNoMore (c : WireCmd) (b : Byte) (s : State) :
    ReadsNoMore s.seq (txAccept c b s).seq := by
  by_cases hl : s.seq.txIdx.toNat + 1 = flen c
  · rw [txAccept_seq_last hl]
    exact ⟨by simp, fun h1 h2 => ⟨h1, h2⟩⟩
  · rw [txAccept_seq_more hl]
    exact .of_eq rfl rfl rfl

theorem txStep_same {c : WireCmd} {v : State} (h : SameButUnwritten s t)
    (hv : txStep c s = .next v) : ∃ v', txStep c t = .next v' ∧ SameButUnwritten v v' := by
  have hun : v.buf = s.buf ∧ v.stg = s.stg ∧ ReadsNoMore s.seq v.seq := by
    obtain ⟨b, -, ⟨-, e⟩ | ⟨-, -, e⟩ | ⟨-, -, e⟩⟩ := txStep_cases (txIdx_lt_of_txStep hv)
    all_goals rw [e] at hv; cases hv
    · exact ⟨rfl, rfl, readsNoMore_idle _⟩
    · exact ⟨rfl, rfl, txAccept_readsNoMore c b (txOffer b s)⟩
    · exact stall_unread c .tx _ (txOffer b s)
  obtain ⟨hb, hg, hr⟩ := hun
  refine ⟨setUnread t.buf t.stg v, ?_, h.after hb hg hr⟩
  rw [h.eq_setUnread, txStep_setUnread, hv]
  rfl

/-- Both states take the same byte to the same place, or both stall. -/
theorem rxStep_same {c : WireCmd} {v : State} (h : SameButUnwritten s t)
    (hv : rxStep c s = .next v) : ∃ v', rxStep c t = .next v' ∧ SameButUnwritten v v' := by
  have hk := rxCnt_lt_of_rxStep hv
  have hlen := rlen_le c
  rw [h.eq_setUnread]
  rcases rxStep_cases hk with ⟨b, rest, hq, e⟩ | ⟨hq, e⟩ <;> rw [e] at hv <;> cases hv
  · refine ⟨rxTake c b rest (setUnread t.buf t.stg s), by simp [rxStep, hk, hq], rfl, ?_, h.stg⟩
    simp only [rxTake, setUnread_buf, setUnread_seq, toNat_succ_of_lt_rlen hk]
    rw [bufTake_setIfInBounds b (by omega), bufTake_setIfInBounds b (by omega), h.buf]
  · obtain ⟨hb, hg, hr⟩ := stall_unread c .rx s.seq.rxCnt s
    exact ⟨_, by simp [rxStep, hk, hq, stall_setUnread], h.after hb hg hr⟩

@[simp] theorem csumCheck_buf (n : Nat) (s : State) : (csumCheck n s).buf = s.buf := by
  rw [csumCheck_eq]

@[simp] theorem csumCheck_stg (n : Nat) (s : State) : (csumCheck n s).stg = s.stg := by
  rw [csumCheck_eq]

@[simp] theorem seqAdvance_buf (s : State) : (seqAdvance s).buf = s.buf := by
  rw [(seqAdvance_frame s).1]

@[simp] theorem seqAdvance_stg (s : State) : (seqAdvance s).stg = s.stg := by
  rw [(seqAdvance_frame s).1]

/-- Outside MEASURE, the sequencer after FIN is where nothing is read. -/
theorem seqAdvance_readsNoMore {q : Sequencer} (ho : s.seq.op ≠ .measure) :
    ReadsNoMore q (seqAdvance s).seq := by
  rcases seqAdvance_cases s with ⟨-, e⟩ | ⟨-, e⟩ <;> rw [e]
  · exact .of_start rfl fun h => absurd h ho
  · exact readsNoMore_idle q

/-- A FIN step without post-processing reads the reply for its sum alone. -/
theorem finStep_same_of_opaque {c : WireCmd} (h : SameButUnwritten s t)
    (hb : bufTake s.buf (rlen c) = bufTake t.buf (rlen c)) (ho : s.seq.op ≠ .measure) :
    SameButUnwritten (finStep c postNothing s) (finStep c postNothing t) := by
  have e : finStep c postNothing t = setUnread t.buf t.stg (finStep c postNothing s) := by
    rw [h.eq_setUnread]
    simp only [finStep, postNothing, setUnread_buf, setUnread_stg, csumCheck_setUnread _ hb,
      seqAdvance_setUnread]
  rw [e]
  exact h.after (by simp [finStep, postNothing]) (by simp [finStep, postNothing])
    (seqAdvance_readsNoMore (by simpa [postNothing] using ho))

/-- `READ_PC` reads a whole buffer, and overwrites the staging registers. -/
theorem finStep_readPc_setUnread (g : Staging) (s : State) :
    finStep .readPc decodePC (setUnread s.buf g s) = finStep .readPc decodePC s := by
  simp only [finStep, csumCheck_setUnread g (rfl : bufTake s.buf _ = bufTake s.buf _)]
  congr 1
  simp [decodePC, setUnread]

/-- At FIN the whole reply is written, and in MEASURE's second exchange the staging registers too: what the FIN
step reads is the same in both states. -/
theorem finStep_same {c : WireCmd} (h : SameButUnwritten s t) (hc : curCmd s.seq = some c)
    (hk : s.seq.rxCnt.toNat = rlen c) :
    SameButUnwritten (finStep c (postOf c) s) (finStep c (postOf c) t) := by
  obtain ⟨ho, hs⟩ := curCmd_eq_some_iff.mp hc
  have hb := hk ▸ h.buf
  cases c with
  | close | readSerial | openCmd | setCont => exact finStep_same_of_opaque h hb (by simp [ho, progPlace])
  | readPc =>
    have ht : t = setUnread s.buf t.stg s := by rw [eq_of_bufTake hb]; exact h.rest
    rw [ht, show finStep .readPc (postOf .readPc) _ = _ from finStep_readPc_setUnread t.stg s]
    exact .refl _
  | readConc =>
    have ht : t = s := by
      rw [h.rest, ← eq_of_bufTake hb, ← h.stg ho hs]
    rw [ht]
    exact .refl _

theorem enginePart_same {v : State} (hq : seqOk s.seq = true) (h : SameButUnwritten s t)
    (hv : enginePart s = .next v) : ∃ v', enginePart t = .next v' ∧ SameButUnwritten v v' := by
  have hseq : t.seq = s.seq := by rw [h.rest]
  rcases seqOk_cases hq with hi | ⟨c, hc, -, ⟨hp, -⟩ | ⟨hp, -⟩ | ⟨hp, -, hk, -⟩⟩
  · have hidle : s.seq.phase = .idle := by rw [hi]; rfl
    rw [enginePart_idle hidle] at hv
    cases hv
    exact ⟨t, enginePart_idle (hseq ▸ hidle), h⟩
  all_goals
    rw [enginePart_busy (by simp [hp]) hc, exec_ofCmd] at hv
    rw [enginePart_busy (by simp [hseq, hp]) (hseq ▸ hc), exec_ofCmd]
  · rw [exchangeStep_tx hp] at hv
    rw [exchangeStep_tx (hseq ▸ hp)]
    exact txStep_same h hv
  · rw [exchangeStep_rx hp] at hv
    rw [exchangeStep_rx (hseq ▸ hp)]
    exact rxStep_same h hv
  · rw [exchangeStep_fin hp] at hv
    cases hv
    rw [exchangeStep_fin (hseq ▸ hp)]
    exact ⟨_, rfl, finStep_same h hc hk⟩

/-- Sampling the inputs and driving `irq` read neither. -/
theorem SameButUnwritten.latch (h : SameButUnwritten s t) : SameButUnwritten (latch s) (latch t) := by
  rw [h.rest]
  exact h.after (u := Machine.latch s) rfl rfl (.of_eq rfl rfl rfl)

theorem SameButUnwritten.driveIrq (h : SameButUnwritten s t) :
    SameButUnwritten (driveIrq s) (driveIrq t) := by
  rw [h.rest]
  exact h.after (u := Machine.driveIrq s) rfl rfl (.of_eq rfl rfl rfl)

end

/-- Settles O53: each part of a step keeps the relation, and the relation hides nothing the outside sees. -/
theorem unwrittenBytesAreUnobservable : Obligations.UnwrittenBytesAreUnobservable := by
  intro s t hinv h
  suffices ∃ s' t', step s = .next s' ∧ step t = .next t' ∧ SameButUnwritten s' t' by
    obtain ⟨s', t', hs, ht, h'⟩ := this
    exact ⟨s', t', hs, ht, h', h'.observed⟩
  have hin : nextInputs t = nextInputs s := by rw [h.rest]; rfl
  cases hr : (nextInputs s).rst with
  | true =>
    refine ⟨resetCycle (latch s), resetCycle (latch t), by simp [step_eq, hr],
      by simp [step_eq, hin, hr], ?_⟩
    rw [h.rest]
    exact .refl _
  | false =>
    obtain ⟨u, v, hu, hui, hv, hs⟩ := step_parts hinv hr
    obtain ⟨u', hu', hsame⟩ := hostPart_same h.latch hu
    obtain ⟨v', hv', hsame⟩ := enginePart_same hui.seq hsame hv
    exact ⟨_, driveIrq v', hs, by simp [step_of_rst_false (hin ▸ hr), hu', hv'], hsame.driveIrq⟩

/-! ### The outputs of a step (R40) -/

/-- The host part drives `hrdata` alone. -/
theorem HostEffect.out {s t : State} (h : HostEffect s t) :
    t.out = { s.out with hrdata := t.out.hrdata } := by
  cases h <;> rfl

/-- A read drives the register's value at the start of the host part. -/
theorem hostPart_read {s t : State} (hsel : s.pins.hsel = true) (hwrite : s.pins.hwrite = false)
    (h : hostPart s = .next t) : t.out.hrdata = some (hostRead s.pins.haddr s) := by
  simp only [hostPart, hsel, hwrite] at h
  cases h
  rfl

@[simp] theorem stall_out (c : WireCmd) (ph : Phase) (n : BitVec 5) (s : State) :
    (stall c ph n s).out = s.out := by
  rw [(stall_frame c ph n s).1]

@[simp] theorem finStep_out (c : WireCmd) (s : State) : (finStep c (postOf c) s).out = s.out := by
  rw [finStep, (seqAdvance_frame _).1]
  cases c <;> simp [postOf, postNothing, csumCheck_eq]

/-- What the engine part drives, phase by phase: the current byte in TX, the handshake of a byte taken in RX. -/
theorem EngineEffect.out {c : WireCmd} {s t : State} (h : EngineEffect c s t) :
    (s.seq.phase = .tx ∧ ∃ b, (frame c)[s.seq.txIdx.toNat]? = some b ∧
      t.out = { s.out with txValid := true, txData := b }) ∨
    (s.seq.phase = .rx ∧ s.link.rxq ≠ [] ∧ t.out = { s.out with rxPop := true }) ∨
    ((s.seq.phase = .rx ∧ s.link.rxq = [] ∨ s.seq.phase = .fin) ∧ t.out = s.out) := by
  cases h with
  | txError b hp hb | txAccept b hp hb | txStall b hp hb => exact .inl ⟨hp, b, hb, by simp⟩
  | rxTake b rest hp hk hq => exact .inr (.inl ⟨hp, by simp [hq], rfl⟩)
  | rxStall hp hk hq => exact .inr (.inr ⟨.inl ⟨hp, hq⟩, by simp⟩)
  | fin hp => exact .inr (.inr ⟨.inr hp, by simp⟩)

/-- The transport's outputs of a step in which nothing was driven before the engine part. -/
structure TransportOutputs (u v : State) : Prop where
  txValid : v.out.txValid = (u.seq.phase == .tx)
  txData : v.out.txValid = true → ∃ c, curCmd u.seq = some c ∧
    (frame c)[u.seq.txIdx.toNat]? = some v.out.txData
  noData : v.out.txValid = false → v.out.txData = 0x00#8
  rxPop : v.out.rxPop = (u.seq.phase == .rx && !u.link.rxq.isEmpty)

theorem enginePart_out {u v : State} {r : Option Word} (h : enginePart u = .next v)
    (hu : u.out = { Outputs.quiet with hrdata := r }) :
    TransportOutputs u v ∧ v.out.hrdata = r := by
  rcases enginePart_effect h with ⟨hp, rfl⟩ | ⟨c, -, hc, he⟩
  · exact ⟨by constructor <;> simp [hp, hu], by rw [hu]⟩
  · rcases he.out with ⟨hp, b, hb, ho⟩ | ⟨hp, hq, ho⟩ | ⟨hp | hp, ho⟩ <;> rw [hu] at ho
    · have hdata : (frame c)[u.seq.txIdx.toNat]? = some v.out.txData := by rw [ho, hb]
      exact ⟨⟨by simp [ho, hp], fun _ => ⟨c, hc, hdata⟩, by simp [ho], by simp [ho, hp]⟩, by rw [ho]⟩
    · exact ⟨by constructor <;> simp [ho, hp, hq], by rw [ho]⟩
    · exact ⟨by constructor <;> simp [ho, hp], by rw [ho]⟩
    · exact ⟨by constructor <;> simp [ho, hp], by rw [ho]⟩

/-- Settles O10: the host part drives `hrdata` alone, the engine part `tx_valid`, `tx_data` and `rx_pop`. -/
theorem outputsOfAStep : Obligations.OutputsOfAStep := by
  intro s h hr
  obtain ⟨u, v, hu, -, hv, hs⟩ := step_parts h hr
  obtain ⟨hout, hrdata⟩ := enginePart_out hv (hostPart_effect hu).out
  refine ⟨u, driveIrq v, hu, hs, hout.txValid, hout.txData, hout.noData, hout.rxPop, rfl, ?_⟩
  intro hsel hwrite
  exact hrdata.trans (hostPart_read hsel hwrite hu)

/-! ### The words the host reads -/

theorem hostRead_status (s : State) : hostRead (regAddr .status) s = statusWord s := rfl

theorem hostRead_config (s : State) : hostRead (regAddr .config) s = configWord s.cfg := rfl

theorem hostRead_params (s : State) : hostRead (regAddr .params) s = paramsWord s.hw := rfl

/-- The seven flags at the low end of `STATUS`, bit by bit. -/
theorem statusWord_flags (s : State) :
    (statusWord s).getLsbD 0 = busy s ∧ (statusWord s).getLsbD 1 = s.status.done ∧
    (statusWord s).getLsbD 2 = s.status.err ∧ (statusWord s).getLsbD 3 = s.status.valid ∧
    (statusWord s).getLsbD 4 = s.status.initDone ∧ (statusWord s).getLsbD 5 = s.status.reject ∧
    (statusWord s).getLsbD 6 = s.status.csumErr := by
  refine ⟨?_, ?_, ?_, ?_, ?_, ?_, ?_⟩ <;>
    · rw [statusWord]
      repeat rw [BitVec.getLsbD_append]
      simp

/-- The wider fields of `STATUS`, each above those before it. -/
theorem statusWord_fields (s : State) :
    (statusWord s).extractLsb' 8 2 = opCode s.seq.op ∧
    (statusWord s).extractLsb' 10 2 = rejCauseBits s.status.rejCause ∧
    (statusWord s).extractLsb' 12 4 = errCodeBits s.status.errCode ∧
    (statusWord s).extractLsb' 16 3 = s.status.errCmd ∧
    (statusWord s).extractLsb' 20 2 = phaseCode s.status.errPhase ∧
    (statusWord s).extractLsb' 22 5 = s.status.errCount := by
  refine ⟨?_, ?_, ?_, ?_, ?_, ?_⟩ <;>
    · rw [statusWord]
      repeat rw [BitVec.extractLsb'_append_eq_of_le (by decide)]
      exact BitVec.extractLsb'_append_eq_right

/-- Settles O17: the flags and the fields of the word at address 2, the codes by their tables. -/
theorem statusFieldsRead : Obligations.StatusFieldsRead := by
  intro s
  have hread : hostRead 2#6 s = statusWord s := hostRead_status s
  rw [hread]
  obtain ⟨-, hdone, herr, hvalid, hinit, hrej, hcsum⟩ := statusWord_flags s
  obtain ⟨-, hcause, hcode, hcmd, hphase, hcount⟩ := statusWord_fields s
  refine ⟨hdone, herr, hvalid, hinit, hrej, hcsum, hcause.trans ?_, hcode.trans ?_, hcmd,
    hphase.trans ?_, hcount⟩
  · cases s.status.rejCause <;> rfl
  · cases s.status.errCode <;> rfl
  · cases s.status.errPhase <;> rfl

/-- Settles O18: `BUSY` is the lowest flag, `CUR_OP` the lowest field, and both are of the sequencer. -/
theorem busyAndCurOpHaveNoStorage : Obligations.BusyAndCurOpHaveNoStorage := by
  intro s
  obtain ⟨hbusy, -⟩ := statusWord_flags s
  obtain ⟨hop, -⟩ := statusWord_fields s
  rw [hostRead_status]
  exact ⟨by rw [hbusy, busy_iff], hop.trans (by cases s.seq.op <;> rfl)⟩

/-- Settles O19: `PARAMS` is a function of the variant, which has two values. -/
theorem paramsValue : Obligations.ParamsValue := by
  intro s
  rw [hostRead_params]
  exact ⟨fun h => by rw [paramsWord, h]; rfl, fun h => by rw [paramsWord, h]; rfl⟩

theorem ofBool_getLsbD_eq_extractLsb' {n : Nat} (x : BitVec n) (i : Nat) :
    BitVec.ofBool (x.getLsbD i) = x.extractLsb' i 1 := by
  ext j hj
  simp [show j = 0 by omega]

/-- A word is its `CONFIG` fields: the timeout, the reserved bits 15:2, `CSUM_EN` and `IRQ_EN`. -/
theorem configFields_append (d : Word) :
    (d.extractLsb' 16 16 ++ d.extractLsb' 2 14 ++ BitVec.ofBool (d.getLsbD 1) ++
      BitVec.ofBool (d.getLsbD 0) : Word) = d := by
  rw [ofBool_getLsbD_eq_extractLsb', ofBool_getLsbD_eq_extractLsb']
  iterate 3 rw [BitVec.extractLsb'_append_extractLsb'_eq_extractLsb' (by rfl)]
  exact BitVec.extractLsb'_eq_self

/-- The bits of `CONFIG` that a write can set: all but 15:2, and bit 1 only where there is a validator. -/
theorem configWord_configWrite (d : Word) (s : State) :
    configWord (configWrite d s).cfg =
      d &&& (0xFFFF#16 ++ 0#14 ++ BitVec.ofBool s.hw.hasCsum ++ 1#1) := by
  conv_rhs => rw [← configFields_append d]
  iterate 3 rw [BitVec.and_append]
  have ht : d.extractLsb' 16 16 &&& 0xFFFF#16 = d.extractLsb' 16 16 := BitVec.and_allOnes
  have h0 : BitVec.ofBool (d.getLsbD 0) &&& 1#1 = BitVec.ofBool (d.getLsbD 0) := BitVec.and_allOnes
  rw [ht, h0, BitVec.ofBool_and_ofBool, BitVec.and_zero]
  rfl

/-- Settles O21: the mask of a `CONFIG` write, in both variants. -/
theorem configReadsBack : Obligations.ConfigReadsBack := by
  intro s d
  refine ⟨configWrite d s, rfl, ?_⟩
  rw [hostRead_config, configWord_configWrite]
  cases s.hw.hasCsum <;> rfl

theorem regAt_eq_some_iff {a : BitVec 6} {r : HostReg} : regAt a = some r ↔ a = regAddr r := by
  revert a
  cases r <;> decide

/-- Settles O5: every register but `PARAMS` reads 0, since its fields do. -/
theorem resetValues : Obligations.ResetValues := by
  refine ⟨rfl, fun a ha => ?_, by decide, rfl, rfl, rfl, rfl⟩
  unfold hostRead
  cases hr : regAt a with
  | none => rfl
  | some r =>
    cases r with
    | params => exact absurd (regAt_eq_some_iff.mp hr) ha
    | cmd | config | status | interp | count05 | count25 | count10 | pm25 | pm10 | alarm | calib
      | workstatus => rfl

end Sys2Proof.Machine
end

section
/-! 20_memory.md: the transport's streams over a step (R66 to R69, R74), one operation at a time (R77), and what the
host reads and writes at each word address (R61 to R65). -/

namespace Sys2Proof.Machine

/-! ### Sequencer moves -/

/-- A program's next index does not wrap: a program has at most four exchanges. -/
theorem toNat_step_succ {q : Sequencer} (h : q.step.toNat + 1 < (prog q.op).length) :
    (q.step + 1#2).toNat = q.step.toNat + 1 := by
  have : (prog q.op).length ≤ 4 := by cases q.op <;> decide
  simp only [BitVec.toNat_add, BitVec.toNat_ofNat]
  omega

/-- The index of an accepted byte does not wrap: a frame has at most six bytes. -/
theorem toNat_txIdx_succ {c : WireCmd} {k : BitVec 3} (h : k.toNat < flen c) :
    (k + 1#3).toNat = k.toNat + 1 := by
  have := flen_le c
  simp only [BitVec.toNat_add, BitVec.toNat_ofNat]
  omega

/-- A stall times out, or moves the stall counter alone. -/
theorem stall_seq_cases (c : WireCmd) (ph : Phase) (n : BitVec 5) (s : State) :
    ((stall c ph n s).seq = Sequencer.idle ∧ (stall c ph n s).status.err = true) ∨
    ∃ k, (stall c ph n s).seq = { s.seq with stallCnt := k } := by
  rcases stall_cases c ph n s with ⟨-, e⟩ | ⟨-, -, e⟩ | ⟨-, e⟩ <;> rw [e]
  · exact .inr ⟨s.seq.stallCnt, rfl⟩
  · exact .inl ⟨rfl, rfl⟩
  · exact .inr ⟨_, rfl⟩

/-- A FIN step advances the sequencer from where it stood. -/
theorem finStep_seq_cases (c : WireCmd) (s : State) :
    (s.seq.step.toNat + 1 < (prog s.seq.op).length ∧
      (finStep c (postOf c) s).seq = exchStart { s.seq with step := s.seq.step + 1#2 }) ∨
    ((prog s.seq.op).length ≤ s.seq.step.toNat + 1 ∧
      (finStep c (postOf c) s).seq = Sequencer.idle ∧
      (finStep c (postOf c) s).status.done = true) := by
  have h := seqAdvance_cases (postOf c (csumCheck (rlen c) s))
  rw [postOf_seq, csumCheck_seq] at h
  rcases h with ⟨hlt, e⟩ | ⟨hle, e⟩ <;> rw [finStep, e]
  · exact .inl ⟨hlt, rfl⟩
  · exact .inr ⟨hle, rfl, rfl⟩

/-- An accepted byte leaves the exchange. -/
theorem txAccept_step (c : WireCmd) (b : Byte) (s : State) :
    (txAccept c b s).seq.step = s.seq.step := by
  by_cases h : s.seq.txIdx.toNat + 1 = flen c
  · rw [txAccept_seq_last h]
  · rw [txAccept_seq_more h]

/-! ### The link over each part of a step -/

@[simp] theorem stall_link (c : WireCmd) (ph : Phase) (n : BitVec 5) (s : State) :
    (stall c ph n s).link = s.link := by
  rw [(stall_frame c ph n s).1]

@[simp] theorem finStep_link (c : WireCmd) (s : State) :
    (finStep c (postOf c) s).link = s.link := by
  rw [finStep, (seqAdvance_frame _).1]
  cases c <;> simp [postOf, postNothing, csumCheck_eq]

@[simp] theorem txAccept_link (c : WireCmd) (b : Byte) (s : State) :
    (txAccept c b s).link = { s.link with sent := s.link.sent ++ [b] } := rfl

@[simp] theorem rxTake_link (c : WireCmd) (b : Byte) (rest : List Byte) (s : State) :
    (rxTake c b rest s).link = { s.link with rxq := rest } := rfl

@[simp] theorem rxTake_out (c : WireCmd) (b : Byte) (rest : List Byte) (s : State) :
    (rxTake c b rest s).out = { s.out with rxPop := true } := rfl

/-- The host part does not reach the transport, and keeps the sampled inputs. -/
theorem HostEffect.link_pins {s t : State} (h : HostEffect s t) :
    t.link = s.link ∧ t.pins = s.pins := by
  cases h <;> exact ⟨rfl, rfl⟩

/-! ### The TX stream follows the program (R69, R74) -/

@[simp] theorem wireSoFar_idle : wireSoFar Sequencer.idle = [] := rfl

/-- In TX: the whole frames of the finished exchanges, then the accepted bytes of the current one. -/
theorem wireSoFar_of_tx {q : Sequencer} {c : WireCmd} (hc : curCmd q = some c)
    (hp : q.phase = .tx) :
    wireSoFar q =
      ((prog q.op).take q.step.toNat).flatMap frame ++ (frame c).take q.txIdx.toNat := by
  simp only [wireSoFar, hc, hp]

/-- After TX: the current exchange's frame is whole too. -/
theorem wireSoFar_of_not_tx {q : Sequencer} {c : WireCmd} (hc : curCmd q = some c)
    (hp : q.phase ≠ .tx) :
    wireSoFar q = ((prog q.op).take q.step.toNat).flatMap frame ++ frame c := by
  cases h : q.phase with
  | tx => exact absurd h hp
  | idle | rx | fin => simp only [wireSoFar, hc, h]

/-- The stall counter is no part of what has gone. -/
theorem wireSoFar_stallCnt (q : Sequencer) (k : Half) :
    wireSoFar { q with stallCnt := k } = wireSoFar q := rfl

/-- An accepted byte is the next one of the program's frames. -/
theorem wireSoFar_txAccept {c : WireCmd} {b : Byte} {s : State} (hc : curCmd s.seq = some c)
    (hp : s.seq.phase = .tx) (hb : (frame c)[s.seq.txIdx.toNat]? = some b) :
    wireSoFar (txAccept c b s).seq = wireSoFar s.seq ++ [b] := by
  have htake : (frame c).take (s.seq.txIdx.toNat + 1) =
      (frame c).take s.seq.txIdx.toNat ++ [b] := by
    rw [List.take_add_one, hb, Option.toList_some]
  have hc' : curCmd (txAccept c b s).seq = some c :=
    (curCmd_congr (txAccept_op c b s) (txAccept_step c b s)).trans hc
  rw [wireSoFar_of_tx hc hp, List.append_assoc, ← htake]
  by_cases hl : s.seq.txIdx.toNat + 1 = flen c
  · rw [txAccept_seq_last hl] at hc' ⊢
    rw [wireSoFar_of_not_tx hc' (by simp), hl, ← frame_length, List.take_length]
  · rw [txAccept_seq_more hl] at hc' ⊢
    rw [wireSoFar_of_tx hc' hp, toNat_txIdx_succ (lt_of_frame_getElem? hb)]

/-- A taken reply byte leaves what has gone. -/
theorem wireSoFar_rxTake {c : WireCmd} {b : Byte} {rest : List Byte} {s : State}
    (hc : curCmd s.seq = some c) (hp : s.seq.phase = .rx) :
    wireSoFar (rxTake c b rest s).seq = wireSoFar s.seq := by
  have hp' : (rxTake c b rest s).seq.phase ≠ .tx := by
    rw [rxTake_seq]
    by_cases hl : s.seq.rxCnt.toNat + 1 = rlen c <;> simp [hl, hp]
  have hc' : curCmd (rxTake c b rest s).seq = some c := hc
  rw [wireSoFar_of_not_tx hc (by simp [hp]), wireSoFar_of_not_tx hc' hp']
  rfl

/-- The exchange after FIN begins where the last frame ended. -/
theorem wireSoFar_next {q : Sequencer} {c : WireCmd} (hc : curCmd q = some c)
    (hp : q.phase ≠ .tx) (hlt : q.step.toNat + 1 < (prog q.op).length) :
    wireSoFar (exchStart { q with step := q.step + 1#2 }) = wireSoFar q := by
  have hstep := toNat_step_succ hlt
  have hcur : curCmd (exchStart { q with step := q.step + 1#2 }) =
      some (prog q.op)[q.step.toNat + 1] := by
    simp [curCmd, hstep, hlt]
  have hc' : (prog q.op)[q.step.toNat]? = some c := hc
  rw [wireSoFar_of_tx hcur rfl, wireSoFar_of_not_tx hc hp]
  simp [hstep, List.take_add_one, hc']

/-- A part of a step that sends nothing and leaves what has gone, or ends the operation. -/
theorem SentOk.of_sent_eq {s t : State} (h : SentOk s) (hl : t.link.sent = s.link.sent)
    (hq : t.seq = Sequencer.idle ∨ wireSoFar t.seq = wireSoFar s.seq) : SentOk t := by
  rcases hq with hq | hq
  · rw [SentOk, hq]
    exact List.nil_suffix
  · rwa [SentOk, hq, hl]

/-- The host part leaves what has gone, ends the operation, or starts one. -/
theorem HostEffect.sentOk {s t : State} (he : HostEffect s t) (h : SentOk s) : SentOk t := by
  cases he with
  | nothing | read | config | status | reject => exact h
  | abort => exact h.of_sent_eq rfl (.inl rfl)
  | start o ho =>
    have hnil : wireSoFar (seqAt o 0#2) = [] := by cases o <;> rfl
    rw [SentOk, startOp_seq, hnil]
    exact List.nil_suffix

theorem stall_sentOk {c : WireCmd} {ph : Phase} {n : BitVec 5} {s : State} (h : SentOk s) :
    SentOk (stall c ph n s) := by
  refine h.of_sent_eq (by simp) ?_
  rcases stall_seq_cases c ph n s with ⟨e, -⟩ | ⟨k, e⟩ <;> rw [e]
  · exact .inl rfl
  · exact .inr (wireSoFar_stallCnt s.seq k)

/-- The engine part appends the program's next byte, or sends nothing. -/
theorem EngineEffect.sentOk {c : WireCmd} {s t : State} (he : EngineEffect c s t)
    (hc : curCmd s.seq = some c) (h : SentOk s) : SentOk t := by
  cases he with
  | txError => exact h.of_sent_eq rfl (.inl rfl)
  | txAccept b hp hb =>
    rw [SentOk, wireSoFar_txAccept (s := txOffer b s) hc hp hb]
    exact List.suffix_append_self_iff.mpr h
  | txStall b => exact stall_sentOk (s := txOffer b s) h
  | rxTake b rest hp => exact h.of_sent_eq rfl (.inr (wireSoFar_rxTake hc hp))
  | rxStall => exact stall_sentOk h
  | fin hp =>
    refine h.of_sent_eq (by simp) ?_
    rcases finStep_seq_cases c s with ⟨hlt, e⟩ | ⟨-, e, -⟩ <;> rw [e]
    · exact .inr (wireSoFar_next hc (by simp [hp]) hlt)
    · exact .inl rfl

/-- Settles O50: each part of a step keeps the stream at the program's frames, and a reset step has no program. -/
theorem sentStreamFollowsProgram : Obligations.SentStreamFollowsProgram := by
  intro s t _ h hstep
  rcases step_effect hstep with ⟨-, rfl⟩ | ⟨-, u, v, hu, -, hv, rfl⟩
  · exact h.of_sent_eq rfl (.inl rfl)
  · have hsu : SentOk u := hu.sentOk (s := latch s) h
    rcases enginePart_effect hv with ⟨-, rfl⟩ | ⟨c, -, hc, he⟩
    · exact hsu
    · exact he.sentOk hc hsu

/-! ### One operation at a time (R77) -/

/-- `r` is in the same exchange as `q`, no counter and no phase further back. -/
def StaysInExchange (q r : Sequencer) : Prop :=
  r.op = q.op ∧ r.step = q.step ∧
    ((r.phase = q.phase ∧ q.txIdx.toNat ≤ r.txIdx.toNat ∧ q.rxCnt.toNat ≤ r.rxCnt.toNat) ∨
      (q.phase = .tx ∧ r.phase = .rx) ∨ (q.phase = .rx ∧ r.phase = .fin))

/-- `r` is at the first byte of the exchange after the one that `q` ends. -/
def GoesToNextExchange (q r : Sequencer) : Prop :=
  r.op = q.op ∧ r.step.toNat = q.step.toNat + 1 ∧ q.phase = .fin ∧ r.phase = .tx ∧ r.txIdx = 0#3

/-- `t` is idle, by an error or by completing after the last exchange. -/
def EndsOperation (s t : State) : Prop :=
  t.seq = Sequencer.idle ∧
    (t.status.err = true ∨
      (s.seq.phase = .fin ∧ s.seq.step.toNat + 1 = (prog s.seq.op).length ∧ t.status.done = true))

theorem StaysInExchange.stallCnt (q : Sequencer) (k : Half) :
    StaysInExchange q { q with stallCnt := k } :=
  ⟨rfl, rfl, .inl ⟨rfl, le_rfl, le_rfl⟩⟩

theorem staysInExchange_txAccept {c : WireCmd} {b : Byte} {s : State} (hp : s.seq.phase = .tx)
    (hb : (frame c)[s.seq.txIdx.toNat]? = some b) :
    StaysInExchange s.seq (txAccept c b s).seq := by
  by_cases hl : s.seq.txIdx.toNat + 1 = flen c
  · rw [txAccept_seq_last hl]
    exact ⟨rfl, rfl, .inr (.inl ⟨hp, rfl⟩)⟩
  · rw [txAccept_seq_more hl]
    have hk := toNat_txIdx_succ (lt_of_frame_getElem? hb)
    exact ⟨rfl, rfl, .inl ⟨rfl, by simp only [hk]; omega, le_rfl⟩⟩

theorem staysInExchange_rxTake {c : WireCmd} {b : Byte} {rest : List Byte} {s : State}
    (hp : s.seq.phase = .rx) (hk : s.seq.rxCnt.toNat < rlen c) :
    StaysInExchange s.seq (rxTake c b rest s).seq := by
  rw [rxTake_seq]
  refine ⟨rfl, rfl, ?_⟩
  by_cases hl : s.seq.rxCnt.toNat + 1 = rlen c
  · exact .inr (.inr ⟨hp, by simp [hl]⟩)
  · exact .inl ⟨by simp [hl], le_rfl, by simp only [toNat_succ_of_lt_rlen hk]; omega⟩

theorem stall_progress (c : WireCmd) (ph : Phase) (n : BitVec 5) (s : State) :
    StaysInExchange s.seq (stall c ph n s).seq ∨ EndsOperation s (stall c ph n s) := by
  rcases stall_seq_cases c ph n s with ⟨e, herr⟩ | ⟨k, e⟩
  · exact .inr ⟨e, .inl herr⟩
  · exact .inl (e ▸ .stallCnt s.seq k)

/-- An engine part stays in its exchange, goes on to the next, or ends the operation. -/
theorem EngineEffect.progress {c : WireCmd} {s t : State} (he : EngineEffect c s t)
    (hc : curCmd s.seq = some c) :
    StaysInExchange s.seq t.seq ∨ GoesToNextExchange s.seq t.seq ∨ EndsOperation s t := by
  cases he with
  | txError => exact .inr (.inr ⟨rfl, .inl rfl⟩)
  | txAccept b hp hb => exact .inl (staysInExchange_txAccept (s := txOffer b s) hp hb)
  | txStall b => exact (stall_progress c .tx _ (txOffer b s)).imp_right .inr
  | rxTake b rest hp hk => exact .inl (staysInExchange_rxTake hp hk)
  | rxStall => exact (stall_progress c .rx _ s).imp_right .inr
  | fin hp =>
    rcases finStep_seq_cases c s with ⟨hlt, e⟩ | ⟨hle, e, hdone⟩
    · exact .inr (.inl (e ▸ ⟨rfl, toNat_step_succ hlt, hp, rfl, rfl⟩))
    · have hlt : s.seq.step.toNat < (prog s.seq.op).length := (List.getElem?_eq_some_iff.mp hc).1
      exact .inr (.inr ⟨e, .inr ⟨hp, by omega, hdone⟩⟩)

/-- While an operation runs a host part leaves the sequencer, or aborts. -/
theorem HostEffect.seq_of_busy {s t : State} (he : HostEffect s t) (hb : s.seq.phase ≠ .idle) :
    t.seq = s.seq ∨ (t.seq = Sequencer.idle ∧ t.status.err = true) := by
  cases he with
  | nothing | read | config | status | reject => exact .inl rfl
  | start o ho hp => exact absurd hp hb
  | abort => exact .inr ⟨rfl, rfl⟩

/-- Settles O51: by what a host part of a busy engine and an engine part can do to the sequencer. -/
theorem oneOperationAtATime : Obligations.OneOperationAtATime := by
  intro s t _ hbusy hstep
  rcases step_effect hstep with ⟨hr, rfl⟩ | ⟨-, u, v, hu, -, hv, rfl⟩
  · exact .inr (.inr ⟨rfl, .inl hr⟩)
  · rcases hu.seq_of_busy (busy_iff.mp hbusy) with hq | ⟨hq, herr⟩
    · rw [latch_seq] at hq
      rcases enginePart_effect hv with ⟨hp, -⟩ | ⟨c, -, hc, he⟩
      · exact absurd (hq ▸ hp) (busy_iff.mp hbusy)
      · rcases he.progress hc with h | h | ⟨hidle, h⟩
        · exact .inl (hq ▸ h)
        · exact .inr (.inl (hq ▸ h))
        · exact .inr (.inr ⟨hidle, .inr (hq ▸ h)⟩)
    · rw [enginePart_idle (by rw [hq]; rfl)] at hv
      cases hv
      exact .inr (.inr ⟨hq, .inr (.inl herr)⟩)

/-! ### The handshakes (R66, R67) -/

/-- The streams of `v` are those of `u` but for the bytes whose handshakes `v` records. -/
structure Handshakes (u v : State) : Prop where
  rxq : v.link.rxq = if v.out.rxPop then u.link.rxq.tail else u.link.rxq
  sent : v.link.sent =
    if v.out.txValid && u.pins.txReady && !u.pins.txErr then u.link.sent ++ [v.out.txData]
    else u.link.sent

/-- No handshake, no movement. -/
theorem Handshakes.of_quiet {u v : State} (hl : v.link = u.link) (ht : v.out.txValid = false)
    (hr : v.out.rxPop = false) : Handshakes u v := by
  constructor <;> simp [hl, ht, hr]

/-- What the engine part does to the streams is what it signals, when nothing was signalled before it. -/
theorem EngineEffect.handshakes {c : WireCmd} {s t : State} (he : EngineEffect c s t)
    (ht : s.out.txValid = false) (hr : s.out.rxPop = false) : Handshakes s t := by
  cases he with
  | txError b _ _ herr => constructor <;> simp [hr, herr]
  | txAccept b _ _ herr hready => constructor <;> simp [hr, herr, hready]
  | txStall b _ _ _ hready => constructor <;> simp [hr, hready]
  | rxTake b rest _ _ hq => constructor <;> simp [ht, hq]
  | rxStall | fin => exact .of_quiet (by simp) (by simp [ht]) (by simp [hr])

/-- Settles O11: the host part signals nothing and moves nothing, and a reset step neither. -/
theorem streamsMoveByHandshake : Obligations.StreamsMoveByHandshake := by
  intro s t hstep
  suffices h : Handshakes (latch s) t from ⟨h.rxq, h.sent⟩
  rcases step_effect hstep with ⟨-, rfl⟩ | ⟨-, u, v, hu, -, hv, rfl⟩
  · exact .of_quiet rfl rfl rfl
  · obtain ⟨hlink, hpins⟩ := hu.link_pins
    have hvalid : u.out.txValid = false := by rw [hu.out]; rfl
    have hpop : u.out.rxPop = false := by rw [hu.out]; rfl
    have h : Handshakes u v := by
      rcases enginePart_effect hv with ⟨-, rfl⟩ | ⟨c, -, -, he⟩
      · exact .of_quiet rfl hvalid hpop
      · exact he.handshakes hvalid hpop
    exact ⟨hlink ▸ h.rxq, hlink ▸ hpins ▸ h.sent⟩

/-! ### A read has no side effect (R64) -/

/-- The inputs of a cycle with a host read in it. -/
def withRead (a : BitVec 6) (i : Inputs) : Inputs :=
  { i with hsel := true, hwrite := false, haddr := a }

/-- The state as a cycle with other recorded inputs, whose host has read `v`, leaves it. -/
def recordRead (i : Inputs) (v : Word) (s : State) : State :=
  { s with pins := i, out := { s.out with hrdata := some v } }

section
variable (i : Inputs) (v : Word) (s : State)

@[simp] theorem recordRead_seq : (recordRead i v s).seq = s.seq := rfl
@[simp] theorem recordRead_pins : (recordRead i v s).pins = i := rfl
@[simp] theorem recordRead_link : (recordRead i v s).link = s.link := rfl

theorem txOffer_recordRead (b : Byte) :
    txOffer b (recordRead i v s) = recordRead i v (txOffer b s) := rfl

theorem stall_recordRead (c : WireCmd) (ph : Phase) (n : BitVec 5) :
    stall c ph n (recordRead i v s) = recordRead i v (stall c ph n s) := by
  simp only [stall, apply_ite (recordRead i v)]
  rfl

theorem csumCheck_recordRead (n : Nat) :
    csumCheck n (recordRead i v s) = recordRead i v (csumCheck n s) := by
  simp only [csumCheck_eq]
  rfl

theorem postOf_recordRead (c : WireCmd) :
    postOf c (recordRead i v s) = recordRead i v (postOf c s) := by
  cases c <;> rfl

theorem seqAdvance_recordRead :
    seqAdvance (recordRead i v s) = recordRead i v (seqAdvance s) := by
  simp only [seqAdvance, apply_ite (recordRead i v)]
  rfl

theorem finStep_recordRead (c : WireCmd) :
    finStep c (postOf c) (recordRead i v s) = recordRead i v (finStep c (postOf c) s) := by
  simp only [finStep, csumCheck_recordRead, postOf_recordRead, seqAdvance_recordRead]

end

/-- Of the recorded inputs and outputs an exchange reads `tx_err` and `tx_ready` alone. -/
theorem EngineEffect.exec_recordRead {c : WireCmd} {s t : State} {i : Inputs} (v : Word)
    (h : EngineEffect c s t) (herr : i.txErr = s.pins.txErr) (hready : i.txReady = s.pins.txReady) :
    exec (Instr.ofCmd c) (recordRead i v s) = .next (recordRead i v t) := by
  rw [exec_ofCmd]
  cases h with
  | txError b hp hb he =>
    simp only [exchangeStep_tx, hp, txStep, recordRead_seq, recordRead_pins, hb, herr, he,
      txOffer_recordRead]
    rfl
  | txAccept b hp hb he hr =>
    simp only [exchangeStep_tx, hp, txStep, recordRead_seq, recordRead_pins, hb, herr, he, hready,
      hr, txOffer_recordRead]
    rfl
  | txStall b hp hb he hr =>
    simp [exchangeStep_tx, hp, txStep, hb, herr, he, hready, hr, txOffer_recordRead, stall_recordRead]
  | rxTake b rest hp hk hq =>
    simp only [exchangeStep_rx, hp, rxStep, recordRead_seq, recordRead_link, hk, hq]
    rfl
  | rxStall hp hk hq =>
    simp [exchangeStep_rx, hp, rxStep, hk, hq, stall_recordRead]
  | fin hp => simp only [exchangeStep_fin, recordRead_seq, hp, finStep_recordRead]

theorem enginePart_recordRead {s t : State} {i : Inputs} (v : Word) (h : enginePart s = .next t)
    (herr : i.txErr = s.pins.txErr) (hready : i.txReady = s.pins.txReady) :
    enginePart (recordRead i v s) = .next (recordRead i v t) := by
  rcases enginePart_effect h with ⟨hp, rfl⟩ | ⟨c, hp, hc, he⟩
  · exact enginePart_idle hp
  · exact (enginePart_busy (s := recordRead i v s) hp hc).trans (he.exec_recordRead v herr hready)

/-- A cycle whose host reads is, after the host part, the cycle without an access but for what it records. -/
theorem hostPart_latch_withRead {s : State} {i : Inputs} {rest : List Inputs} (a : BitVec 6)
    (hs : s.sched = i :: rest) :
    hostPart (latch { s with sched := withRead a i :: rest }) =
      .next (recordRead (withRead a i) (hostRead a s) (latch s)) := by
  simp only [hostPart, latch, nextInputs, hs]
  rfl

theorem resetCycle_latch_withRead {s : State} {i : Inputs} {rest : List Inputs} (a : BitVec 6)
    (hs : s.sched = i :: rest) :
    resetCycle (latch { s with sched := withRead a i :: rest }) =
      recordRead (withRead a i) 0#32 (resetCycle (latch s)) := by
  simp only [resetCycle, latch, nextInputs, hs]
  rfl

/-- Settles O14: a read drives `hrdata` alone, which no rule reads back; in a reset step it reads 0. -/
theorem readsHaveNoSideEffect : Obligations.ReadsHaveNoSideEffect := by
  intro s i rest a h hs hsel
  have hin : nextInputs s = i := by rw [nextInputs, hs]
  suffices ∃ t, step s = .next t ∧ ∃ v, step { s with sched := withRead a i :: rest } =
      .next (recordRead (withRead a i) v t) from this
  cases hr : i.rst with
  | true =>
    refine ⟨resetCycle (latch s), by simp [step_eq, hin, hr], 0#32, ?_⟩
    rw [← resetCycle_latch_withRead a hs, step_eq]
    exact if_pos hr
  | false =>
    obtain ⟨u, hu⟩ := enginePart_next (s := latch s) h.seq
    have hread := enginePart_recordRead (i := withRead a i) (hostRead a s) hu
      (by rw [latch_pins, hin]; rfl) (by rw [latch_pins, hin]; rfl)
    refine ⟨driveIrq u, by simp [step_no_access (hin ▸ hr) (hin ▸ hsel), hu], hostRead a s, ?_⟩
    rw [step_of_rst_false (by exact hr), hostPart_latch_withRead a hs, andThen_next, hread]
    rfl

/-! ### Unmapped words and reserved bits (R63) -/

/-- Word addresses 13 to 63 are unmapped (R61). -/
theorem regAt_eq_none {a : BitVec 6} (h : 13 ≤ a.toNat) : regAt a = none := by
  revert a
  decide

theorem hostRead_unmapped {a : BitVec 6} (h : 13 ≤ a.toNat) (s : State) : hostRead a s = 0#32 := by
  rw [hostRead, regAt_eq_none h]

theorem hostWrite_unmapped {a : BitVec 6} (h : 13 ≤ a.toNat) (d : Word) (s : State) :
    hostWrite a d s = .next s := by
  rw [hostWrite, regAt_eq_none h]

/-- The reserved bits of `STATUS`: 7, 19 and 31:27 (10_state.md R23). -/
theorem statusWord_reserved (s : State) :
    (statusWord s).extractLsb' 7 1 = 0#1 ∧ (statusWord s).extractLsb' 19 1 = 0#1 ∧
    (statusWord s).extractLsb' 27 5 = 0#5 := by
  simp only [statusWord]
  refine ⟨?_, ?_, ?_⟩
  · iterate 7 rw [BitVec.extractLsb'_append_eq_of_le (by decide)]
    exact BitVec.extractLsb'_append_eq_right
  · iterate 12 rw [BitVec.extractLsb'_append_eq_of_le (by decide)]
    exact BitVec.extractLsb'_append_eq_right
  · iterate 15 rw [BitVec.extractLsb'_append_eq_of_le (by decide)]
    exact BitVec.extractLsb'_eq_self

/-- The reserved bits of `CONFIG`: 15:2 (10_state.md R22). -/
theorem configWord_reserved (c : ConfigReg) : (configWord c).extractLsb' 2 14 = 0#14 := by
  rw [configWord]
  iterate 2 rw [BitVec.extractLsb'_append_eq_of_le (by decide)]
  exact BitVec.extractLsb'_append_eq_right

/-- The reserved bits of `INTERP`: 31:7 (42_decode_and_status.md R199). -/
theorem interpWord_reserved (p : Snapshot) : (interpWord p).extractLsb' 7 25 = 0#25 := by
  rw [interpWord]
  iterate 6 rw [BitVec.extractLsb'_append_eq_of_le (by decide)]
  exact BitVec.extractLsb'_eq_self

/-- The reserved bits of `PARAMS`: 11:9 (10_state.md R28). -/
theorem paramsWord_reserved (w : Config.Variant) : (paramsWord w).extractLsb' 9 3 = 0#3 := by
  rw [paramsWord]
  iterate 2 rw [BitVec.extractLsb'_append_eq_of_le (by decide)]
  exact BitVec.extractLsb'_append_eq_right

/-- The bits above a zero-extended register read 0 (R71). -/
theorem extractLsb'_setWidth_above {n m k : Nat} (x : BitVec n) :
    (x.setWidth m).extractLsb' n k = 0#k := by
  ext j hj
  simp

/-- A `CONFIG` write reads bits 31:16, 1 and 0 alone (41_host_operations.md R170). -/
theorem configWrite_mask (d : Word) (s : State) :
    configWrite (d &&& 0xFFFF0003#32) s = configWrite d s := by
  have ht : (d &&& 0xFFFF0003#32).extractLsb' 16 16 = d.extractLsb' 16 16 := by
    rw [BitVec.extractLsb'_and]
    exact BitVec.and_allOnes
  simp [configWrite, ht]

/-- A `STATUS` write reads its four W1C bits alone (41_host_operations.md R171). -/
theorem statusWrite_mask (d : Word) (s : State) :
    statusWrite (d &&& 0x00000066#32) s = statusWrite d s := by
  simp [statusWrite]

/-- At a position of the rules no `CMD` word stops the machine: an abort finds the command it ends. -/
theorem cmdWrite_next {s : State} (h : seqOk s.seq = true) (d : Word) :
    ∃ t, cmdWrite d s = .next t := by
  unfold cmdWrite
  split
  · next i hi =>
    rcases decodeHostOp_cases hi with ⟨x, rfl⟩ | ⟨x, rfl⟩ | ⟨x, rfl⟩ | ⟨x, rfl⟩
    · exact ⟨_, rfl⟩
    · exact ⟨_, rfl⟩
    · exact ⟨_, rfl⟩
    · by_cases hp : s.seq.phase = .idle
      · exact ⟨s, by simp [exec, execAbort, busy, hp]⟩
      · obtain ⟨c, hc⟩ := curCmd_of_busy h hp
        exact ⟨_, by simp [exec, execAbort, busy, hp, hc]; rfl⟩
  · exact ⟨_, rfl⟩

theorem hostWrite_next {s : State} (h : seqOk s.seq = true) (a : BitVec 6) (d : Word) :
    ∃ t, hostWrite a d s = .next t := by
  unfold hostWrite
  split
  · exact cmdWrite_next h d
  all_goals exact ⟨_, rfl⟩

/-- Settles O15: the reserved fields of each word, the bits each write reads, and no write that stops. -/
theorem unmappedAndReservedBits : Obligations.UnmappedAndReservedBits := by
  refine ⟨fun s a d ha => ⟨hostRead_unmapped ha s, hostWrite_unmapped ha d s⟩, fun s => ?_,
    fun s d => ⟨congrArg _ (configWrite_mask d s).symm, congrArg _ (statusWrite_mask d s).symm⟩,
    fun s a d h => hostWrite_next h.seq a d⟩
  obtain ⟨h7, h19, h27⟩ := statusWord_reserved s
  exact ⟨configWord_reserved s.cfg, h7, h19, h27, interpWord_reserved s.snap,
    extractLsb'_setWidth_above s.snap.pm25, extractLsb'_setWidth_above s.snap.pm10,
    extractLsb'_setWidth_above s.snap.alarm, extractLsb'_setWidth_above s.snap.calib,
    extractLsb'_setWidth_above s.snap.workstatus, paramsWord_reserved s.hw⟩

/-! ### The words the host reads, as numbers (R61) -/

theorem configWord_toNat (c : ConfigReg) :
    (configWord c).toNat = c.irqEn.toNat + 2 * c.csumEn.toNat + 2 ^ 16 * c.timeout.toNat := by
  simp only [configWord, toNat_append_eq, BitVec.toNat_ofBool, BitVec.toNat_ofNat]
  omega

theorem statusWord_toNat (s : State) :
    (statusWord s).toNat =
      (busy s).toNat + 2 * s.status.done.toNat + 4 * s.status.err.toNat +
        8 * s.status.valid.toNat + 16 * s.status.initDone.toNat + 32 * s.status.reject.toNat +
        64 * s.status.csumErr.toNat + 2 ^ 8 * (opCode s.seq.op).toNat +
        2 ^ 10 * (rejCauseBits s.status.rejCause).toNat +
        2 ^ 12 * (errCodeBits s.status.errCode).toNat + 2 ^ 16 * s.status.errCmd.toNat +
        2 ^ 20 * (phaseCode s.status.errPhase).toNat + 2 ^ 22 * s.status.errCount.toNat := by
  simp only [statusWord, toNat_append_eq, BitVec.toNat_ofBool, BitVec.toNat_ofNat]
  omega

theorem interpWord_toNat (p : Snapshot) :
    (interpWord p).toNat =
      (wsClassBits (wsClass p.workstatus)).toNat + 4 * (sentinel p.pm25).toNat +
        8 * (sentinel p.pm10).toNat + 16 * (overRange p.pm25).toNat +
        32 * (overRange p.pm10).toNat + 64 * (sentinel p.pm25 || sentinel p.pm10).toNat := by
  simp only [interpWord, toNat_append_eq, BitVec.toNat_ofBool, BitVec.toNat_ofNat]
  omega

/-- The supply-voltage sentinel as a number (42_decode_and_status.md R197). -/
theorem sentinel_eq_decide (v : Half) : sentinel v = decide (v.toNat = 1000) := by
  simp [sentinel, ← BitVec.toNat_inj, Bool.beq_eq_decide_eq]

/-- `WS_CLASS` as a number, of the status byte as a number (42_decode_and_status.md R196). -/
theorem wsClassBits_wsClass_toNat (w : Byte) :
    (wsClassBits (wsClass w)).toNat =
      if w.toNat = 3 then 1 else if w.toNat = 1 then 2 else if w.toNat = 128 then 3 else 0 := by
  simp only [wsClass, ← BitVec.toNat_inj, BitVec.toNat_ofNat]
  split_ifs <;> rfl

/-- A flag at place `n` counts `n` when it is set. -/
theorem mul_toNat_decide (n : Nat) (p : Prop) [Decidable p] :
    n * (decide p).toNat = if p then n else 0 := by
  by_cases h : p <;> simp [h]

/-- Settles O16: each word is its fields at their places, and each code's table gives its number. -/
theorem registerReads : Obligations.RegisterReads := by
  intro s
  refine ⟨rfl, configWord_toNat s.cfg, (statusWord_toNat s).trans ?_,
    (interpWord_toNat s.snap).trans ?_, rfl, rfl, rfl, BitVec.toNat_setWidth_of_le (by decide),
    BitVec.toNat_setWidth_of_le (by decide), BitVec.toNat_setWidth_of_le (by decide),
    BitVec.toNat_setWidth_of_le (by decide), BitVec.toNat_setWidth_of_le (by decide), ?_,
    fun a ha => hostRead_unmapped ha s⟩
  · congr
    · cases h : s.seq.phase <;> simp [busy, h]
    · cases s.seq.op <;> rfl
    · cases s.status.rejCause <;> rfl
    · cases s.status.errCode <;> rfl
    · cases s.status.errPhase <;> rfl
  · simp only [wsClassBits_wsClass_toNat, sentinel_eq_decide, overRange, ← Bool.decide_or,
      mul_toNat_decide]
  · obtain ⟨hon, hoff⟩ := paramsValue s
    cases hw : s.hw.hasCsum with
    | true => exact hon hw
    | false => exact hoff hw

end Sys2Proof.Machine
end

section
/-! 30_encoding.md: the host operations a `CMD` word selects (R98, R99), the encoding and its inverse over both spaces of
the opcode table (R92, R98), and the shape of the request frames (R90, R91). -/

namespace Sys2Proof.Machine

/-! ### The encoding and its inverse -/

/-- The operation code decides, and the ignored bits come through as they are (R98, R99). -/
theorem decode_cmdWord_append (x : BitVec 24) (op : Byte) :
    decode (.cmdWord (x ++ op)) =
      if op = 0x00#8 then .instr (.nop x)
      else if op = 0x01#8 then .instr (.init x)
      else if op = 0x02#8 then .instr (.measure x)
      else if op = 0x0F#8 then .instr (.abort x)
      else .rejected .illegalOp := by
  simp only [decode, decodeHostOp, opcodeOf_append, ignoredOf_append]

theorem decode_frame (c : WireCmd) :
    decode (.frameBytes (frame c)) = .instr (Instr.ofCmd c) :=
  decodeFrame_frame c

theorem decode_encode (i : Instr) : decode (encode i) = .instr i := by
  cases i with
  | nop x => exact decode_cmdWord_append x 0x00#8
  | init x => exact decode_cmdWord_append x 0x01#8
  | measure x => exact decode_cmdWord_append x 0x02#8
  | abort x => exact decode_cmdWord_append x 0x0F#8
  | close => exact decode_frame .close
  | readSerial => exact decode_frame .readSerial
  | openCmd => exact decode_frame .openCmd
  | setCont => exact decode_frame .setCont
  | readConc => exact decode_frame .readConc
  | readPc => exact decode_frame .readPc

/-- A word with a given operation code is its ignored bits joined above it. -/
theorem cmdWordOf_ignoredOf {w : Word} {op : Byte} (h : opcodeOf w = op) :
    cmdWordOf (ignoredOf w) op = w :=
  h ▸ ignoredOf_append_opcodeOf w

theorem eq_encode_of_decodeHostOp {w : Word} {i : Instr} (h : decodeHostOp w = .instr i) :
    .cmdWord w = encode i := by
  unfold decodeHostOp at h
  split at h
  · next hop => cases h; rw [encode, cmdWordOf_ignoredOf hop]
  split at h
  · next hop => cases h; rw [encode, cmdWordOf_ignoredOf hop]
  split at h
  · next hop => cases h; rw [encode, cmdWordOf_ignoredOf hop]
  split at h
  · next hop => cases h; rw [encode, cmdWordOf_ignoredOf hop]
  · cases h

/-- A byte list that decodes to an instruction is the frame of a row of the table (R92). -/
theorem exists_frame_of_decodeFrame {bs : List Byte} {i : Instr} (h : decodeFrame bs = .instr i) :
    ∃ c, bs = frame c := by
  by_contra hne
  have hno : ∀ c, bs ≠ frame c := fun c hc => hne ⟨c, hc⟩
  simp only [decodeFrame, if_neg (hno _)] at h
  split_ifs at h

theorem eq_encode_of_decodeFrame {bs : List Byte} {i : Instr} (h : decodeFrame bs = .instr i) :
    .frameBytes bs = encode i := by
  obtain ⟨c, rfl⟩ := exists_frame_of_decodeFrame h
  cases (decodeFrame_frame c).symm.trans h
  cases c <;> rfl

/-- Settles O2: decoding undoes encoding, and in each space a code that decodes is the encoding. -/
theorem decodeIffEncode : Obligations.DecodeIffEncode := by
  intro c i
  refine ⟨fun h => ?_, fun h => h ▸ decode_encode i⟩
  cases c with
  | cmdWord w => exact eq_encode_of_decodeHostOp h
  | frameBytes bs => exact eq_encode_of_decodeFrame h

/-! ### Host operations by their code -/

theorem decode_cmdWord_illegal (x : BitVec 24) {op : Byte} (h0 : op ≠ 0x00#8) (h1 : op ≠ 0x01#8)
    (h2 : op ≠ 0x02#8) (hF : op ≠ 0x0F#8) :
    decode (.cmdWord (x ++ op)) = .rejected .illegalOp := by
  rw [decode_cmdWord_append, if_neg h0, if_neg h1, if_neg h2, if_neg hF]

/-- Settles O1: a legal code gives the encoding of its operation, any other code is illegal. -/
theorem hostOpcodeSelectsOperation : Obligations.HostOpcodeSelectsOperation := by
  refine fun x op => ⟨?_, ?_, ?_, ?_, decode_cmdWord_illegal x⟩
  · rintro rfl; exact decode_encode (.nop x)
  · rintro rfl; exact decode_encode (.init x)
  · rintro rfl; exact decode_encode (.measure x)
  · rintro rfl; exact decode_encode (.abort x)

/-- Settles O3: a word of the tables is the encoding of its instruction; the two negative vectors and the
numbering of the two table words are computed. -/
theorem tableWordsDecode : Obligations.TableWordsDecode :=
  ⟨decode_encode (.nop 0xFFFFFF#24), decode_encode (.init 0x123456#24),
    decode_encode (.measure 0#24), decode_encode (.abort 0#24), by decide, decode_frame .close,
    decode_frame .readSerial, decode_frame .setCont, by decide, by decide, by decide⟩

/-! ### The shape of the frames -/

theorem sum8_concat (bs : List Byte) (b : Byte) :
    Frame.sum8 (bs ++ [b]) = Frame.sum8 bs + b :=
  List.foldl_append

/-- The last byte of a list whose sum is 0 is the negated sum of the bytes before it (R91). -/
theorem eq_neg_sum8_of_sum8_concat_eq_zero {bs : List Byte} {b : Byte}
    (h : Frame.sum8 (bs ++ [b]) = 0#8) : b = 0#8 - Frame.sum8 bs := by
  rw [sum8_concat] at h
  rw [← h, add_sub_cancel_left]

theorem frame_wellFormed (c : WireCmd) : Frame.wellFormed (frame c) = true := by
  cases c <;> rfl

/-- The checks of R90 and R91 leave a lead byte, a length byte, a body and a last byte. -/
theorem exists_parts_of_wellFormed {bs : List Byte} (h : Frame.wellFormed bs = true) :
    ∃ (l : Byte) (body : List Byte) (cs : Byte),
      bs = 0x11#8 :: l :: (body ++ [cs]) ∧ body.length = l.toNat ∧ Frame.sum8 bs = 0#8 := by
  simp only [Frame.wellFormed, Bool.and_eq_true] at h
  obtain ⟨⟨hlead, hlen⟩, hsum⟩ := h
  match bs with
  | [] | [_] => cases hlen
  | a :: l :: rest =>
    obtain rfl : a = 0x11#8 := by simpa [Frame.leadOk] using hlead
    have hrest : rest.length = l.toNat + 1 := by simpa [Frame.lengthOk] using hlen
    obtain ⟨body, cs, rfl⟩ : ∃ body cs, rest = body ++ [cs] :=
      rest.eq_nil_or_concat'.resolve_left (List.ne_nil_of_length_eq_add_one hrest)
    exact ⟨l, body, cs, rfl, by simpa using hrest, eq_of_beq hsum⟩

/-- Settles O4: every frame passes the checks of R90 and R91, and the table of R92 is written out. -/
theorem framesHaveTheirShape : Obligations.FramesHaveTheirShape := by
  refine ⟨fun c => ⟨frame_length c, flen_le c, rlen_pos c, rlen_le c, ?_⟩, rfl⟩
  obtain ⟨l, body, cs, hbs, hbody, hsum⟩ := exists_parts_of_wellFormed (frame_wellFormed c)
  have hlen : flen c = l.toNat + 3 := by rw [← frame_length, hbs, ← hbody]; simp
  have hcs : cs = 0#8 - Frame.sum8 (0x11#8 :: l :: body) :=
    eq_neg_sum8_of_sum8_concat_eq_zero ((congrArg Frame.sum8 hbs).symm.trans hsum)
  exact ⟨l, body, cs, hbs, hbody, hlen, hsum, hcs⟩

end Sys2Proof.Machine
end

section
/-! 40_wire_exchanges.md: the exchange primitive, phase by phase (R122 to R125), the frame of the six exchanges (R120 to
R132), and a whole exchange under the minimal schedule (70_reset_and_hazards.md R282). -/

namespace Sys2Proof.Machine

/-! ### The idle engine (R120) -/

/-- Settles O9: without a host access the step of an idle engine only samples the inputs and drives `irq`. -/
theorem idleIsQuiescent : Obligations.IdleIsQuiescent := by
  intro s hp hr hsel
  refine ⟨driveIrq (latch s), ?_, rfl, rfl, rfl, rfl, rfl, rfl, rfl, rfl, rfl, rfl, rfl, rfl⟩
  rw [step_no_access hr hsel, enginePart_idle (s := latch s) hp, andThen_next]

/-! ### One step of an exchange (R122 to R124) -/

/-- In RX with a byte queued, the byte is taken. -/
theorem rxStep_of_queued {c : WireCmd} {b : Byte} {rest : List Byte} {s : State}
    (hk : s.seq.rxCnt.toNat < rlen c) (hq : s.link.rxq = b :: rest) :
    rxStep c s = .next (rxTake c b rest s) := by
  simp [rxStep, hk, hq]

/-- In RX with nothing queued, the step stalls. -/
theorem rxStep_of_empty {c : WireCmd} {s : State} (hk : s.seq.rxCnt.toNat < rlen c)
    (hq : s.link.rxq = []) : rxStep c s = .next (stall c .rx s.seq.rxCnt s) := by
  simp [rxStep, hk, hq]

/-- In TX with the transport ready, the byte is accepted. -/
theorem txStep_of_ready {c : WireCmd} {b : Byte} {s : State}
    (hb : (frame c)[s.seq.txIdx.toNat]? = some b) (he : s.pins.txErr = false)
    (hr : s.pins.txReady = true) : txStep c s = .next (txAccept c b (txOffer b s)) := by
  simp [txStep, hb, he, hr]

/-- In TX with the transport not ready, the step stalls. -/
theorem txStep_of_not_ready {c : WireCmd} {b : Byte} {s : State}
    (hb : (frame c)[s.seq.txIdx.toNat]? = some b) (he : s.pins.txErr = false)
    (hr : s.pins.txReady = false) :
    txStep c s = .next (stall c .tx (s.seq.txIdx.setWidth 5) (txOffer b s)) := by
  simp [txStep, hb, he, hr]

@[simp] theorem rxTake_buf (c : WireCmd) (b : Byte) (rest : List Byte) (s : State) :
    (rxTake c b rest s).buf = s.buf.setIfInBounds s.seq.rxCnt.toNat b := rfl

/-- Settles O33: the step is `rxTake`, and a reply's index is inside the buffer. -/
theorem rxStepTakesOneByte : Obligations.RxStepTakesOneByte := by
  intro c s b rest hp hk hq
  have hlen := rlen_le c
  refine ⟨rxTake c b rest s, ?_, ?_, ?_, fun k hne => ?_⟩
  · rw [exec_ofCmd, exchangeStep_rx hp, rxStep_of_queued hk hq]
  · simp [rxTake, hp]
  · rw [rxTake_buf, Vector.getElem?_setIfInBounds_self, if_pos (by omega)]
  · rw [rxTake_buf, Vector.getElem?_setIfInBounds_ne hne.symm]

/-! ### Stalls (R124) -/

section
variable {c : WireCmd} {ph : Phase} {n : BitVec 5} {s : State}

theorem stall_of_timeout_zero (h : s.cfg.timeout.toNat = 0) : stall c ph n s = s := by
  simp [stall, h]

theorem stall_of_timeout_le (h0 : s.cfg.timeout.toNat ≠ 0)
    (h : s.cfg.timeout.toNat ≤ s.seq.stallCnt.toNat + 1) :
    stall c ph n s = raiseError .transportTimeout c ph n s := by
  simp only [stall, if_pos h0, ge_iff_le, if_pos h]

theorem stall_of_lt_timeout (h : s.seq.stallCnt.toNat + 1 < s.cfg.timeout.toNat) :
    stall c ph n s = { s with seq := { s.seq with stallCnt := s.seq.stallCnt + 1#16 } } := by
  simp only [stall, if_pos (Nat.ne_zero_of_lt h), ge_iff_le, if_neg (Nat.not_le.mpr h)]

/-- The stall count does not wrap below a 16-bit timeout. -/
theorem toNat_stallCnt_succ (h : s.seq.stallCnt.toNat + 1 < s.cfg.timeout.toNat) :
    (s.seq.stallCnt + 1#16).toNat = s.seq.stallCnt.toNat + 1 := by
  have := s.cfg.timeout.isLt
  simp only [BitVec.toNat_add, BitVec.toNat_ofNat]
  omega

end

/-- Settles O34: both stalled phases are `stall` on the state with the step's offer, which has three cases. -/
theorem stallCountsOrTimesOut : Obligations.StallCountsOrTimesOut := by
  intro c s ph count o hp hstalled
  have hexec : exec (Instr.ofCmd c) s = .next (stall c ph count { s with out := o }) := by
    rw [exec_ofCmd]
    rcases hstalled with ⟨rfl, he, hr, rfl, b, hb, rfl⟩ | ⟨rfl, hq, hk, rfl, rfl⟩
    · rw [exchangeStep_tx hp, txStep_of_not_ready hb he hr]
      rfl
    · rw [exchangeStep_rx hp, rxStep_of_empty hk hq]
  have hzero : s.cfg.timeout ≠ 0#16 → s.cfg.timeout.toNat ≠ 0 := by
    simp [← BitVec.toNat_inj]
  rw [hexec]
  refine ⟨fun h => ?_, fun h0 h => ?_, fun _ h => ⟨_, rfl, ?_⟩⟩
  · rw [stall_of_timeout_zero (s := { s with out := o }) (by simp [h])]
  · rw [stall_of_timeout_le (s := { s with out := o }) (hzero h0) h]
    rfl
  · rw [stall_of_lt_timeout (s := { s with out := o }) h]
    exact ⟨rfl, toNat_stallCnt_succ h⟩

/-! ### FIN of INIT's exchanges (R127 to R130) -/

section
variable {c : WireCmd} {s : State}

/-- FIN of an opaque reply before INIT's last exchange: the check, then the next exchange. -/
theorem exec_fin_init_next {k : BitVec 2} (hpost : postOf c = postNothing) (hp : s.seq.phase = .fin)
    (ho : s.seq.op = .init) (hs : s.seq.step = k) (hk : k.toNat + 1 < 4) :
    exec (Instr.ofCmd c) s =
      .next { s with
        status := { s.status with
          csumErr := s.status.csumErr || (csumOn s && decide (replySum s.buf (rlen c) ≠ 0#8)) }
        seq := seqAt .init (k + 1#2) } := by
  have hlt : s.seq.step.toNat + 1 < (prog s.seq.op).length := by rw [ho, hs]; exact hk
  rw [exec_ofCmd, exchangeStep_fin hp, hpost, finStep, postNothing, seqAdvance, csumCheck_seq,
    if_pos hlt, csumCheck_eq, ← ho, ← hs]
  rfl

/-- FIN of an opaque reply in INIT's last exchange: the check, then the operation completes. -/
theorem exec_fin_init_last (hpost : postOf c = postNothing) (hp : s.seq.phase = .fin)
    (ho : s.seq.op = .init) (hs : s.seq.step = 3#2) :
    exec (Instr.ofCmd c) s =
      .next { s with
        status := { s.status with
          done := true, initDone := true
          csumErr := s.status.csumErr || (csumOn s && decide (replySum s.buf (rlen c) ≠ 0#8)) }
        seq := Sequencer.idle } := by
  have hlast : ¬ s.seq.step.toNat + 1 < (prog s.seq.op).length := by rw [ho, hs]; decide
  rw [exec_ofCmd, exchangeStep_fin hp, hpost, finStep, postNothing, seqAdvance, csumCheck_seq,
    if_neg hlast, opComplete, csumCheck_seq, if_pos ho, csumCheck_eq]

end

/-- Settles O37: the replies of INIT are opaque, so FIN is the check and the sequencer's move. -/
theorem finOfInitExchanges : Obligations.FinOfInitExchanges := fun _ hp ho =>
  ⟨fun hs => exec_fin_init_next (c := .close) rfl hp ho hs (by decide),
    fun hs => exec_fin_init_next (c := .readSerial) rfl hp ho hs (by decide),
    fun hs => exec_fin_init_next (c := .setCont) rfl hp ho hs (by decide),
    fun hs => exec_fin_init_last (c := .openCmd) rfl hp ho hs⟩

/-! ### What the six exchanges leave unchanged (R120 to R132) -/

/-- What no exchange writes, in any phase. -/
structure KeptByExchange (s t : State) : Prop where
  rest : t = { s with
    status := t.status, snap := t.snap, seq := t.seq, buf := t.buf, stg := t.stg, link := t.link
    out := t.out }
  reject : t.status.reject = s.status.reject
  rejCause : t.status.rejCause = s.status.rejCause
  hrdata : t.out.hrdata = s.out.hrdata

theorem KeptByExchange.trans {s t u : State} (h : KeptByExchange s t) (h' : KeptByExchange t u) :
    KeptByExchange s u where
  rest := by rw [h'.rest, h.rest]
  reject := h'.reject.trans h.reject
  rejCause := h'.rejCause.trans h.rejCause
  hrdata := h'.hrdata.trans h.hrdata

theorem txOffer_kept (b : Byte) (s : State) : KeptByExchange s (txOffer b s) :=
  ⟨rfl, rfl, rfl, rfl⟩

theorem stall_kept (c : WireCmd) (ph : Phase) (n : BitVec 5) (s : State) :
    KeptByExchange s (stall c ph n s) := by
  rcases stall_cases c ph n s with ⟨-, e⟩ | ⟨-, -, e⟩ | ⟨-, e⟩ <;> rw [e]
  all_goals exact ⟨rfl, rfl, rfl, rfl⟩

theorem seqAdvance_kept (s : State) : KeptByExchange s (seqAdvance s) := by
  rcases seqAdvance_cases s with ⟨-, e⟩ | ⟨-, e⟩ <;> rw [e] <;> exact ⟨rfl, rfl, rfl, rfl⟩

theorem csumCheck_kept (n : Nat) (s : State) : KeptByExchange s (csumCheck n s) := by
  rw [csumCheck_eq]
  exact ⟨rfl, rfl, rfl, rfl⟩

theorem postOf_kept (c : WireCmd) (s : State) : KeptByExchange s (postOf c s) := by
  cases c <;> exact ⟨rfl, rfl, rfl, rfl⟩

theorem finStep_kept (c : WireCmd) (s : State) : KeptByExchange s (finStep c (postOf c) s) :=
  ((csumCheck_kept _ s).trans (postOf_kept c _)).trans (seqAdvance_kept _)

theorem EngineEffect.kept {c : WireCmd} {s t : State} (h : EngineEffect c s t) :
    KeptByExchange s t := by
  cases h with
  | txError | txAccept | rxTake => exact ⟨rfl, rfl, rfl, rfl⟩
  | txStall b => exact (txOffer_kept b s).trans (stall_kept c .tx _ _)
  | rxStall => exact stall_kept c .rx _ s
  | fin => exact finStep_kept c s

@[simp] theorem stall_snap (c : WireCmd) (ph : Phase) (n : BitVec 5) (s : State) :
    (stall c ph n s).snap = s.snap := by
  rw [(stall_frame c ph n s).1]

@[simp] theorem stall_valid (c : WireCmd) (ph : Phase) (n : BitVec 5) (s : State) :
    (stall c ph n s).status.valid = s.status.valid :=
  (stall_frame c ph n s).2.1

theorem stall_op_or_idle (c : WireCmd) (ph : Phase) (n : BitVec 5) (s : State) :
    (stall c ph n s).seq.op = s.seq.op ∨ (stall c ph n s).seq = Sequencer.idle :=
  (stall_frame c ph n s).2.2

@[simp] theorem stall_stg (c : WireCmd) (ph : Phase) (n : BitVec 5) (s : State) :
    (stall c ph n s).stg = s.stg := by
  rw [(stall_frame c ph n s).1]

@[simp] theorem stall_buf (c : WireCmd) (ph : Phase) (n : BitVec 5) (s : State) :
    (stall c ph n s).buf = s.buf :=
  (stall_unread c ph n s).1

@[simp] theorem finStep_buf (c : WireCmd) (s : State) : (finStep c (postOf c) s).buf = s.buf := by
  rw [finStep, seqAdvance_buf]
  cases c <;> exact csumCheck_buf _ s

section
variable {c : WireCmd} {s t : State}

/-- An exchange stays in its operation, or ends it. -/
theorem EngineEffect.op_or_idle (h : EngineEffect c s t) :
    t.seq.op = s.seq.op ∨ t.seq = Sequencer.idle := by
  cases h with
  | txError => exact .inr rfl
  | txAccept b => exact .inl (txAccept_op c b (txOffer b s))
  | txStall b => exact stall_op_or_idle c .tx _ (txOffer b s)
  | rxTake => exact .inl rfl
  | rxStall => exact stall_op_or_idle c .rx _ s
  | fin =>
    rcases finStep_seq_cases c s with ⟨-, e⟩ | ⟨-, e, -⟩
    · exact .inl (by rw [e]; rfl)
    · exact .inr e

/-- Only FIN of `READ_CONC` commits a snapshot. -/
theorem EngineEffect.snap_valid (h : EngineEffect c s t)
    (hno : c ≠ .readConc ∨ s.seq.phase ≠ .fin) :
    t.snap = s.snap ∧ t.status.valid = s.status.valid := by
  cases h with
  | txError | txAccept | txStall | rxTake | rxStall => simp
  | fin hp =>
    have hc : c ≠ .readConc := hno.resolve_right (not_not_intro hp)
    rw [finStep, (seqAdvance_frame _).1, csumCheck_eq]
    cases c with
    | readConc => exact absurd rfl hc
    | close | readSerial | openCmd | setCont | readPc => exact ⟨rfl, rfl⟩

/-- Only FIN of `READ_PC` writes the staging registers. -/
theorem EngineEffect.stg (h : EngineEffect c s t) (hno : c ≠ .readPc ∨ s.seq.phase ≠ .fin) :
    t.stg = s.stg := by
  cases h with
  | txError | txAccept | txStall | rxTake | rxStall => simp
  | fin hp =>
    have hc : c ≠ .readPc := hno.resolve_right (not_not_intro hp)
    rw [finStep, seqAdvance_stg]
    cases c with
    | readPc => exact absurd rfl hc
    | close | readSerial | openCmd | setCont | readConc => exact csumCheck_stg _ s

/-- Only RX writes the buffer, and there only the byte at `rx_cnt`. -/
theorem EngineEffect.buf_getElem? {k : Nat} (h : EngineEffect c s t)
    (hno : s.seq.phase ≠ .rx ∨ k ≠ s.seq.rxCnt.toNat) : t.buf[k]? = s.buf[k]? := by
  cases h with
  | rxTake b rest hp =>
    have hk : k ≠ s.seq.rxCnt.toNat := hno.resolve_left (not_not_intro hp)
    rw [rxTake_buf, Vector.getElem?_setIfInBounds_ne hk.symm]
  | txError | txAccept | txStall | rxStall | fin => simp

/-- Only TX adds to the TX stream, and only RX takes from the queue. -/
theorem EngineEffect.link (h : EngineEffect c s t) :
    (s.seq.phase ≠ .tx → t.link.sent = s.link.sent) ∧
    (s.seq.phase ≠ .rx → t.link.rxq = s.link.rxq) := by
  cases h with
  | txAccept b hp => exact ⟨fun hno => absurd hp hno, fun _ => rfl⟩
  | rxTake b rest hp => exact ⟨fun _ => rfl, fun hno => absurd hp hno⟩
  | txError | txStall | rxStall | fin => simp

end

/-- Settles O42: idle, an exchange is nothing; otherwise by what its effect writes, register by register. -/
theorem exchangeFrame : Obligations.ExchangeFrame := by
  intro c s t h
  by_cases hp : s.seq.phase = .idle
  · rw [exec_ofCmd, exchangeStep_idle hp] at h
    cases h
    simp
  have he : EngineEffect c s t := exec_ofCmd_effect hp h
  obtain ⟨hrest, hreject, hcause, hrdata⟩ := he.kept
  obtain ⟨hhw, hcfg⟩ := he.hw_cfg
  obtain ⟨hsent, hrxq⟩ := he.link
  refine ⟨hhw, hcfg, by rw [hrest], by rw [hrest], by rw [hrest], hreject, hcause, hrdata,
    fun hno => ?_, he.stg, fun k => he.buf_getElem?, hsent, hrxq, he.op_or_idle⟩
  obtain ⟨hsnap, hvalid⟩ := he.snap_valid hno
  exact ⟨hsnap, hvalid, fun a ha => hostRead_congr hhw hcfg hsnap ha⟩

/-! ### A whole exchange under the minimal schedule (R121 to R123, R282) -/

/-- The sequencer at the exchange of `c` after `n` bytes have moved, the frame's and then the reply's, without
a stall. -/
def exchangeAt (c : WireCmd) (n : Nat) : Sequencer :=
  { seqAt (progPlace c).1 (progPlace c).2 with
    phase := if n < flen c then .tx else if n < flen c + rlen c then .rx else .fin
    txIdx := if n < flen c then BitVec.ofNat 3 n else 0#3
    rxCnt := BitVec.ofNat 5 (n - flen c) }

section
variable {c : WireCmd} {n : Nat}

@[simp] theorem curCmd_exchangeAt : curCmd (exchangeAt c n) = some c :=
  (curCmd_congr rfl rfl).trans (curCmd_seqAt c)

theorem exchangeAt_zero : exchangeAt c 0 = seqAt (progPlace c).1 (progPlace c).2 := by
  simp [exchangeAt, flen_pos, seqAt]

theorem exchangeAt_end : exchangeAt c (flen c + rlen c) =
    { seqAt (progPlace c).1 (progPlace c).2 with phase := .fin, rxCnt := BitVec.ofNat 5 (rlen c) } := by
  simp [exchangeAt]

theorem exchangeAt_tx (h : n < flen c) :
    (exchangeAt c n).phase = .tx ∧ (exchangeAt c n).txIdx.toNat = n := by
  have := flen_le c
  simp only [exchangeAt, if_pos h, BitVec.toNat_ofNat, true_and]
  omega

theorem exchangeAt_rx (h : flen c ≤ n) (hn : n < flen c + rlen c) :
    (exchangeAt c n).phase = .rx ∧ (exchangeAt c n).rxCnt.toNat = n - flen c := by
  have := rlen_le c
  simp only [exchangeAt, if_neg (Nat.not_lt.mpr h), if_pos hn, BitVec.toNat_ofNat, true_and]
  omega

/-- An accepted byte moves the exchange on by one. -/
theorem txAccept_seq_exchangeAt {b : Byte} {s : State} (hs : s.seq = exchangeAt c n)
    (h : n < flen c) : (txAccept c b s).seq = exchangeAt c (n + 1) := by
  obtain ⟨-, hidx⟩ := exchangeAt_tx h
  have hpos := rlen_pos c
  by_cases hl : n + 1 = flen c
  · rw [txAccept_seq_last (by rw [hs, hidx, hl]), hs]
    simp [exchangeAt, seqAt, hl, hpos]
  · have hlt : n + 1 < flen c := by omega
    rw [txAccept_seq_more (by rw [hs, hidx]; exact hl), hs]
    simp [exchangeAt, seqAt, h, hlt, BitVec.ofNat_add, Nat.sub_eq_zero_of_le h.le,
      Nat.sub_eq_zero_of_le hlt.le]

/-- A taken byte moves the exchange on by one. -/
theorem rxTake_seq_exchangeAt {b : Byte} {rest : List Byte} {s : State}
    (hs : s.seq = exchangeAt c n) (h : flen c ≤ n) (hn : n < flen c + rlen c) :
    (rxTake c b rest s).seq = exchangeAt c (n + 1) := by
  obtain ⟨hp, hcnt⟩ := exchangeAt_rx h hn
  have hphase : (if n - flen c + 1 = rlen c then Phase.fin else .rx) =
      if n + 1 < flen c + rlen c then .rx else .fin := by
    by_cases hl : n - flen c + 1 = rlen c
    · rw [if_pos hl, if_neg (by omega)]
    · rw [if_neg hl, if_pos (by omega)]
  rw [rxTake_seq, hs, hp, hcnt, hphase]
  simp [exchangeAt, seqAt, show ¬ n < flen c by omega, show ¬ n + 1 < flen c by omega,
    Nat.sub_add_comm h, BitVec.ofNat_add]

end

section
variable {c : WireCmd} {b : Byte} {s : State} {rest : List Inputs}

theorem nextInputs_of_sched {i : Inputs} (hs : s.sched = i :: rest) : nextInputs s = i := by
  rw [nextInputs, hs]

/-- Nothing arrives in a step of the minimal schedule. -/
theorem latch_link_of_ready (hs : s.sched = readyInputs :: rest) : (latch s).link = s.link := by
  simp [nextInputs_of_sched hs, readyInputs, Inputs.quiet]

/-- A ready step of a running operation is a step of its exchange. -/
theorem step_of_ready (hs : s.sched = readyInputs :: rest) (hp : s.seq.phase ≠ .idle)
    (hc : curCmd s.seq = some c) :
    step s = andThen (exchangeStep c (postOf c) (latch s)) fun t => .next (driveIrq t) := by
  have hin := nextInputs_of_sched hs
  rw [step_no_access (by rw [hin]; rfl) (by rw [hin]; rfl), enginePart_busy (s := latch s) hp hc,
    exec_ofCmd]

/-- In TX a ready step moves the current byte of the frame. -/
theorem step_tx_of_ready (hs : s.sched = readyInputs :: rest) (hp : s.seq.phase = .tx)
    (hc : curCmd s.seq = some c) (hb : (frame c)[s.seq.txIdx.toNat]? = some b) :
    step s = .next (driveIrq (txAccept c b (txOffer b (latch s)))) := by
  have hpins : (latch s).pins = readyInputs := nextInputs_of_sched hs
  rw [step_of_ready hs (by simp [hp]) hc, exchangeStep_tx (s := latch s) hp,
    txStep_of_ready (s := latch s) hb (by rw [hpins]; rfl) (by rw [hpins]; rfl), andThen_next]

/-- In RX a ready step takes the oldest queued byte. -/
theorem step_rx_of_ready {queue : List Byte} (hs : s.sched = readyInputs :: rest)
    (hp : s.seq.phase = .rx) (hc : curCmd s.seq = some c) (hk : s.seq.rxCnt.toNat < rlen c)
    (hq : s.link.rxq = b :: queue) : step s = .next (driveIrq (rxTake c b queue (latch s))) := by
  have hq' : (latch s).link.rxq = b :: queue := by rw [latch_link_of_ready hs, hq]
  rw [step_of_ready hs (by simp [hp]) hc, exchangeStep_rx (s := latch s) hp,
    rxStep_of_queued (s := latch s) hk hq', andThen_next]

end

/-- Storing the next reply byte in a buffer that starts with the first `k`. -/
theorem toList_setIfInBounds_take {b old : Buffer} {reply : List Byte} {k : Nat}
    (hb : b.toList = reply.take k ++ old.toList.drop k) (hk : k < reply.length) (h : k < 20) :
    (b.setIfInBounds k reply[k]).toList = reply.take (k + 1) ++ old.toList.drop (k + 1) := by
  have hlen : (reply.take k).length = k := List.length_take_of_le hk.le
  have hold : old.toList.drop k = old.toList[k]'(by simpa using h) :: old.toList.drop (k + 1) :=
    List.drop_eq_getElem_cons _
  rw [Vector.toList_setIfInBounds, hb, List.set_append_right k _ hlen.le, hlen, Nat.sub_self, hold,
    List.set_cons_zero, List.take_succ_eq_append_getElem hk, List.append_assoc, List.singleton_append]

/-- `t` is where the exchange of `c`, begun in `s`, stands after `n` bytes have moved, with `reply` and then
`tail` queued at its start. -/
structure MovedBytes (c : WireCmd) (s : State) (reply tail : List Byte) (n : Nat) (t : State) :
    Prop where
  seq : t.seq = exchangeAt c n
  link : t.link =
    { rxq := reply.drop (n - flen c) ++ tail, sent := s.link.sent ++ (frame c).take n }
  buf : t.buf.toList = reply.take (n - flen c) ++ s.buf.toList.drop (n - flen c)
  status : t.status = s.status
  snap : t.snap = s.snap
  stg : t.stg = s.stg
  cfg : t.cfg = s.cfg
  hw : t.hw = s.hw

section
variable {c : WireCmd} {s t : State} {reply tail : List Byte} {n : Nat} {rest : List Inputs}

theorem MovedBytes.start (hseq : s.seq = seqAt (progPlace c).1 (progPlace c).2)
    (hrxq : s.link.rxq = reply ++ tail) : MovedBytes c s reply tail 0 s where
  seq := by rw [hseq, exchangeAt_zero]
  link := by simp [← hrxq]
  buf := by simp
  status := rfl
  snap := rfl
  stg := rfl
  cfg := rfl
  hw := rfl

/-- While the frame goes out, a ready step moves its next byte. -/
theorem MovedBytes.step_tx (h : MovedBytes c s reply tail n t) (hn : n < flen c)
    (ht : t.sched = readyInputs :: rest) :
    ∃ u, step t = .next u ∧ MovedBytes c s reply tail (n + 1) u ∧ u.sched = rest := by
  obtain ⟨hp, hidx⟩ := exchangeAt_tx hn
  obtain ⟨b, hb⟩ := frame_getElem?_of_lt hn
  rw [← h.seq] at hp hidx
  have hk : n - flen c = 0 := Nat.sub_eq_zero_of_le hn.le
  have hk' : n + 1 - flen c = 0 := Nat.sub_eq_zero_of_le hn
  refine ⟨_, step_tx_of_ready ht hp (by rw [h.seq, curCmd_exchangeAt]) (hidx ▸ hb), ?_, ?_⟩
  · exact {
      seq := (driveIrq_seq _).trans (txAccept_seq_exchangeAt h.seq hn)
      link := by
        rw [driveIrq_link, txAccept_link, txOffer_link, latch_link_of_ready ht, h.link, hk, hk',
          List.take_add_one, hb, Option.toList_some, List.append_assoc]
      buf := by rw [hk']; exact hk ▸ h.buf
      status := h.status, snap := h.snap, stg := h.stg, cfg := h.cfg, hw := h.hw }
  · simp [ht]

/-- While the reply comes in, a ready step takes its next byte. -/
theorem MovedBytes.step_rx (h : MovedBytes c s reply tail n t) (hreply : reply.length = rlen c)
    (hn : flen c ≤ n) (hn' : n < flen c + rlen c) (ht : t.sched = readyInputs :: rest) :
    ∃ u, step t = .next u ∧ MovedBytes c s reply tail (n + 1) u ∧ u.sched = rest := by
  obtain ⟨hp, hcnt⟩ := exchangeAt_rx hn hn'
  rw [← h.seq] at hp hcnt
  have hlen := rlen_le c
  have hk : n - flen c < reply.length := by omega
  have hk' : n + 1 - flen c = n - flen c + 1 := by omega
  have hq : t.link.rxq = reply[n - flen c] :: (reply.drop (n - flen c + 1) ++ tail) := by
    rw [h.link, List.drop_eq_getElem_cons hk, List.cons_append]
  have hsent : ∀ m, flen c ≤ m → (frame c).take m = frame c := fun m hm =>
    List.take_of_length_le (by rwa [frame_length])
  refine ⟨_, step_rx_of_ready ht hp (by rw [h.seq, curCmd_exchangeAt]) (by omega) hq, ?_, ?_⟩
  · exact {
      seq := (driveIrq_seq _).trans (rxTake_seq_exchangeAt h.seq hn hn')
      link := by
        rw [driveIrq_link, rxTake_link, latch_link_of_ready ht, h.link, hk', hsent n hn,
          hsent (n + 1) (by omega)]
      buf := by
        rw [driveIrq_buf, rxTake_buf, latch_buf, latch_seq, hcnt, hk']
        exact toList_setIfInBounds_take h.buf hk (by omega)
      status := h.status, snap := h.snap, stg := h.stg, cfg := h.cfg, hw := h.hw }
  · simp [ht]

/-- `n` ready steps move `n` bytes. -/
theorem run_movedBytes (hseq : s.seq = seqAt (progPlace c).1 (progPlace c).2)
    (hreply : reply.length = rlen c) (hrxq : s.link.rxq = reply ++ tail) (hn : n ≤ flen c + rlen c)
    (hsched : s.sched = readySteps n ++ rest) :
    ∃ t, run n s = .next t ∧ MovedBytes c s reply tail n t ∧ t.sched = rest := by
  induction n generalizing rest with
  | zero =>
    exact ⟨s, rfl, .start hseq hrxq, by simpa [readySteps] using hsched⟩
  | succ n ih =>
    obtain ⟨t, hrun, ht, hsched'⟩ := ih (rest := readyInputs :: rest) (by omega)
      (by simpa [readySteps, List.replicate_succ'] using hsched)
    have hstep : ∃ u, step t = .next u ∧ MovedBytes c s reply tail (n + 1) u ∧ u.sched = rest := by
      by_cases hlt : n < flen c
      · exact ht.step_tx hlt hsched'
      · exact ht.step_rx hreply (by omega) (by omega) hsched'
    obtain ⟨u, hu, hmoved⟩ := hstep
    exact ⟨u, run_trans hrun (run_one hu), hmoved⟩

end

/-- Settles O54: after `FLEN + RLEN` ready steps every byte of the exchange has moved. -/
theorem exchangeRunsToFin : Obligations.ExchangeRunsToFin := by
  intro c s reply tail rest hseq hreply hrxq hsched
  obtain ⟨t, hrun, h, ht⟩ := run_movedBytes hseq hreply hrxq le_rfl hsched
  have hk : flen c + rlen c - flen c = reply.length := by omega
  refine ⟨t, hrun, ?_, ?_, ?_, h.status, h.snap, h.stg, h.cfg, h.hw, ht⟩
  · rw [h.seq, exchangeAt_end, hseq]
  · rw [h.link, hk, List.drop_length, List.take_of_length_le (by simp)]
    rfl
  · rw [h.buf, hk, List.take_length, hreply]

end Sys2Proof.Machine
end

section
/-! 41_host_operations.md: what a write to each host register does (R160, R170 to R172), the four host
operations (R161 to R167), the sequencer's advance (R168, R169), and whole operations under the minimal
schedule (R174, 70_reset_and_hazards.md R282). -/

namespace Sys2Proof.Machine

/-! ### The host part of a write (R160) -/

section
variable (d : Word) (s : State)

theorem hostWrite_cmd : hostWrite (regAddr .cmd) d s = cmdWrite d s := rfl

theorem hostWrite_config : hostWrite (regAddr .config) d s = .next (configWrite d s) := rfl

theorem hostWrite_status : hostWrite (regAddr .status) d s = .next (statusWrite d s) := rfl

end

theorem hostPart_write {s : State} (hsel : s.pins.hsel = true) (hwrite : s.pins.hwrite = true) :
    hostPart s = hostWrite s.pins.haddr s.pins.hwdata s := by
  simp [hostPart, hsel, hwrite]

/-- A `CMD` word that decodes runs its operation. -/
theorem cmdWrite_of_instr {d : Word} {i : Instr} (h : decode (.cmdWord d) = .instr i) (s : State) :
    cmdWrite d s = exec i s := by
  rw [cmdWrite, show decodeHostOp d = .instr i from h]

/-- A `CMD` word that does not decode is refused. -/
theorem cmdWrite_of_rejected {d : Word} {e : DecodeError} (h : decode (.cmdWord d) = .rejected e)
    (s : State) : cmdWrite d s = .next (rejectCmd .illegal s) := by
  rw [cmdWrite, show decodeHostOp d = .rejected e from h]

/-! ### The other writable registers, and the read-only ones (R170 to R172) -/

/-- Settles O20: the write is `configWrite`, and the engine part follows the host part. -/
theorem configWriteTakesEffect : Obligations.ConfigWriteTakesEffect := by
  refine ⟨fun s d => ?_, fun s u hr hsel hwrite haddr hu => ?_⟩
  · have hcsum : (d.getLsbD 1 && s.hw.hasCsum) = if s.hw.hasCsum then d.getLsbD 1 else false := by
      cases s.hw.hasCsum <;> simp
    rw [hostWrite_config, configWrite, hcsum]
  · have hpart : hostPart (latch s) = .next u := by
      rw [hostPart_write (s := latch s) hsel hwrite, latch_pins, haddr, hu]
    rw [step_of_rst_false hr, hpart, andThen_next]

/-- A W1C bit keeps its value unless its data bit is 1. -/
theorem and_not_eq_ite (a b : Bool) : (a && !b) = if b then false else a := by
  cases b <;> simp

/-- Settles O22: the write is `statusWrite`, each record goes with its bit. -/
theorem statusWriteOneToClear : Obligations.StatusWriteOneToClear := by
  intro s d
  refine ⟨statusWrite d s, hostWrite_status d s, rfl, and_not_eq_ite _ _, and_not_eq_ite _ _, ?_,
    ?_, and_not_eq_ite _ _, rfl, rfl⟩
  · simp only [statusWrite]
    split <;> rfl
  · simp only [statusWrite, and_not_eq_ite]
    split <;> rfl

/-- Settles O23: the ten registers without a write rule. -/
theorem readOnlyWritesHaveNoEffect : Obligations.ReadOnlyWritesHaveNoEffect := by
  intro r d s hcmd hconfig hstatus
  cases r with
  | cmd => exact absurd rfl hcmd
  | config => exact absurd rfl hconfig
  | status => exact absurd rfl hstatus
  | interp | count05 | count25 | count10 | pm25 | pm10 | alarm | calib | workstatus | params => rfl

/-! ### The four host operations (R161 to R167) -/

theorem startOrReject_of_busy {s : State} (h : s.seq.phase ≠ .idle) (o : Op) :
    startOrReject o s = rejectCmd .busy s := if_pos (busy_iff.mpr h)

theorem startOrReject_of_idle {s : State} (h : s.seq.phase = .idle) (o : Op) :
    startOrReject o s = startOp o s := if_neg (by simp [busy, h])

/-- Settles O24: code 0x00 decodes to NOP. -/
theorem nopChangesNothing : Obligations.NopChangesNothing := by
  intro x s
  refine ⟨rfl, ?_⟩
  rw [hostWrite_cmd]
  exact cmdWrite_of_instr (decode_encode (.nop x)) s

/-- Settles O25: an idle engine starts, and stands at the first exchange of the program. -/
theorem startOperation : Obligations.StartOperation := by
  intro x s h
  have hstart := startOrReject_of_idle h
  exact ⟨⟨_, congrArg Host.Outcome.next (hstart .init), rfl,
      enginePart_busy (c := .close) (by simp) rfl⟩,
    ⟨_, congrArg Host.Outcome.next (hstart .measure), rfl,
      enginePart_busy (c := .readPc) (by simp) rfl⟩⟩

/-- Settles O26: both starts are refused with the same cause. -/
theorem busyRefusal : Obligations.BusyRefusal := by
  intro x s h
  have hreject := startOrReject_of_busy h
  exact ⟨congrArg Host.Outcome.next (hreject .init), congrArg Host.Outcome.next (hreject .measure)⟩

/-- Settles O27: the code does not decode. -/
theorem illegalCodeRefusal : Obligations.IllegalCodeRefusal := by
  intro x op s h0 h1 h2 hF
  rw [hostWrite_cmd, cmdWrite_of_rejected (decode_cmdWord_illegal x h0 h1 h2 hF)]
  rfl

/-- What no host operation changes or sets. -/
structure KeptByHostOp (s t : State) : Prop where
  rest : t = { s with status := t.status, seq := t.seq }
  valid : t.status.valid = s.status.valid
  done : t.status.done = true → s.status.done = true
  initDone : t.status.initDone = true → s.status.initDone = true
  csumErr : t.status.csumErr = true → s.status.csumErr = true

section
variable (s : State)

theorem KeptByHostOp.refl : KeptByHostOp s s := ⟨rfl, rfl, id, id, id⟩

theorem rejectCmd_kept (cause : RejCause) : KeptByHostOp s (rejectCmd cause s) :=
  ⟨rfl, rfl, id, id, id⟩

theorem raiseError_kept (code : ErrCode) (c : WireCmd) (ph : Phase) (n : BitVec 5) :
    KeptByHostOp s (raiseError code c ph n s) :=
  ⟨rfl, rfl, id, id, id⟩

theorem startOp_kept (o : Op) : KeptByHostOp s (startOp o s) where
  rest := rfl
  valid := rfl
  done := fun h => nomatch (h : false = true)
  initDone := by cases o <;> simp [startOp]
  csumErr := fun h => nomatch (h : false = true)

/-- A start, accepted or refused, sets no `ERR`. -/
theorem startOrReject_kept (o : Op) : KeptByHostOp s (startOrReject o s) ∧
    ((startOrReject o s).status.err = true → s.status.err = true) := by
  by_cases h : s.seq.phase = .idle
  · rw [startOrReject_of_idle h]
    exact ⟨startOp_kept s o, fun he => nomatch (he : false = true)⟩
  · rw [startOrReject_of_busy h]
    exact ⟨rejectCmd_kept s .busy, id⟩

end

theorem execAbort_kept {x : BitVec 24} {s t : State} (h : execAbort x s = .next t) :
    KeptByHostOp s t := by
  unfold execAbort at h
  split at h
  · split at h
    · cases h; exact raiseError_kept s ..
    · cases h
  · cases h; exact .refl s

/-- All four operations keep that, and `ERR` is set by an outcome of ABORT only. -/
theorem hostOp_kept {x : BitVec 24} {s t : State}
    (h : exec (.nop x) s = .next t ∨ exec (.init x) s = .next t ∨ exec (.measure x) s = .next t ∨
      exec (.abort x) s = .next t) :
    KeptByHostOp s t ∧
      (exec (.abort x) s ≠ .next t → t.status.err = true → s.status.err = true) := by
  rcases h with h | h | h | h
  · cases h; exact ⟨.refl s, fun _ => id⟩
  · cases h
    obtain ⟨hkept, herr⟩ := startOrReject_kept s .init
    exact ⟨hkept, fun _ => herr⟩
  · cases h
    obtain ⟨hkept, herr⟩ := startOrReject_kept s .measure
    exact ⟨hkept, fun _ => herr⟩
  · exact ⟨execAbort_kept (x := x) h, fun hne => absurd h hne⟩

/-- Settles O31: each outcome keeps all but `STATUS` and the sequencer, and `STATUS` alone reads them. -/
theorem hostOperationFrame : Obligations.HostOperationFrame := by
  intro x s t h
  obtain ⟨hkept, herr⟩ := hostOp_kept h
  have hread : ∀ a : BitVec 6, a ≠ regAddr .status → hostRead a t = hostRead a s := fun a =>
    hostRead_congr (by rw [hkept.rest]) (by rw [hkept.rest]) (by rw [hkept.rest])
  exact ⟨hkept.rest, hkept.valid, hread, hkept.done, hkept.initDone, hkept.csumErr, herr⟩

/-! ### The sequencer's advance (R168, R169) -/

section
variable {c : WireCmd} {s : State}

/-- FIN with a further exchange in the program. -/
theorem finStep_next (h : s.seq.step.toNat + 1 < (prog s.seq.op).length) :
    finStep c (postOf c) s =
      { postOf c (csumCheck (rlen c) s) with seq := seqAt s.seq.op (s.seq.step + 1#2) } := by
  rw [finStep, seqAdvance, postOf_seq, csumCheck_seq, if_pos h]
  rfl

/-- FIN of the program's last exchange. -/
theorem finStep_last (h : (prog s.seq.op).length ≤ s.seq.step.toNat + 1) :
    finStep c (postOf c) s = opComplete (postOf c (csumCheck (rlen c) s)) := by
  rw [finStep, seqAdvance, postOf_seq, csumCheck_seq, if_neg (by omega)]

end

/-- What FIN leaves in `STATUS` before the sequencer advances. -/
theorem postOf_csumCheck_status (c : WireCmd) (s : State) :
    (postOf c (csumCheck (rlen c) s)).status =
      { s.status with
        valid := s.status.valid || decide (c = .readConc)
        csumErr := s.status.csumErr || (csumOn s && decide (replySum s.buf (rlen c) ≠ 0#8)) } := by
  rw [csumCheck_eq]
  cases c with
  | readConc => simp [postOf]
  | close | readSerial | openCmd | setCont | readPc => simp [postOf, postNothing]

/-- Settles O40: the two cases of the program's length, from the state that the check and `Post` leave. -/
theorem sequencerAdvancesByOne : Obligations.SequencerAdvancesByOne := by
  intro c s hp _
  have hstatus := postOf_csumCheck_status c s
  refine ⟨finStep c (postOf c) s, by rw [exec_ofCmd, exchangeStep_fin hp], fun h => ?_, fun h => ?_⟩
  · rw [finStep_next h]
    exact ⟨rfl, toNat_step_succ h, rfl, rfl, rfl, rfl, by simp [hstatus]⟩
  · rw [finStep_last h]
    refine ⟨rfl, rfl, ?_⟩
    simp [opComplete, hstatus]

/-! ### A whole exchange, FIN step included (R168, R282) -/

/-- Where the sequencer stands after the exchange of a wire command, by the programs of 30_encoding.md R100. -/
def seqAfter : WireCmd → Sequencer
  | .close => seqAt .init 1#2
  | .readSerial => seqAt .init 2#2
  | .setCont => seqAt .init 3#2
  | .readPc => seqAt .measure 1#2
  | .openCmd | .readConc => Sequencer.idle

/-- What a finished exchange of `c` makes of `STATUS`; `bad` is a failed check of its reply (R201). -/
def statusAfter (c : WireCmd) (bad : Bool) (r : StatusReg) : StatusReg :=
  { r with
    done := r.done || decide (seqAfter c = Sequencer.idle)
    valid := r.valid || decide (c = .readConc)
    initDone := r.initDone || decide (c = .openCmd)
    csumErr := r.csumErr || bad }

/-- The staging registers decoded from a `READ_PC` reply (42_decode_and_status.md R192). -/
def stagedFrom (reply : List Byte) : Staging :=
  let p := fun k => reply.getD k 0#8
  { c05 := p 3 ++ p 4 ++ p 5 ++ p 6, c25 := p 7 ++ p 8 ++ p 9 ++ p 10
    c10 := p 11 ++ p 12 ++ p 13 ++ p 14 }

/-- The snapshot committed from the staging registers and a `READ_CONC` reply (42_decode_and_status.md R193). -/
def committedFrom (g : Staging) (reply : List Byte) : Snapshot :=
  let q := fun k => reply.getD k 0#8
  { count05 := g.c05, count25 := g.c25, count10 := g.c10
    pm25 := q 6 ++ q 5, pm10 := q 10 ++ q 9
    alarm := q 15, calib := q 17, workstatus := q 18 }

theorem committedFrom_stagedFrom (pc conc : List Byte) :
    committedFrom (stagedFrom pc) conc = snapshotOf pc conc := rfl

section
variable {c : WireCmd} {s : State}

/-- FIN by its command: four of the six have a further exchange in their program. -/
theorem finStep_of_curCmd (hc : curCmd s.seq = some c) :
    (finStep c (postOf c) s).seq = seqAfter c ∧
    (finStep c (postOf c) s).status =
      statusAfter c (csumOn s && decide (replySum s.buf (rlen c) ≠ 0#8)) s.status := by
  obtain ⟨hop, hstep⟩ := curCmd_eq_some_iff.mp hc
  have hstatus := postOf_csumCheck_status c s
  cases c with
  | close | readSerial | setCont | readPc =>
    rw [finStep_next (by rw [hop, hstep]; decide)]
    rw [hop, hstep]
    refine ⟨rfl, hstatus.trans ?_⟩
    simp [statusAfter, seqAfter, seqAt, Sequencer.idle]
  | openCmd | readConc =>
    rw [finStep_last (by rw [hop, hstep]; decide)]
    refine ⟨rfl, ?_⟩
    simp [opComplete, hstatus, hop, progPlace, statusAfter, seqAfter]

/-- A byte of a buffer that starts with a 20-byte reply. -/
theorem getElem_of_reply {b : Buffer} {reply rest : List Byte} (hb : b.toList = reply ++ rest)
    (hlen : reply.length = 20) {k : Nat} (hk : k < 20) : b[k] = reply.getD k 0#8 := by
  rw [getElem_of_toList hb (hlen ▸ hk) hk, List.getD_eq_getElem]

theorem finStep_readPc_stg {reply rest : List Byte} (hb : s.buf.toList = reply ++ rest)
    (hlen : reply.length = 20) : (finStep .readPc (postOf .readPc) s).stg = stagedFrom reply := by
  simp [finStep, postOf, decodePC, stagedFrom, be32, getElem_of_reply hb hlen]

theorem finStep_readConc_snap {reply rest : List Byte} (hb : s.buf.toList = reply ++ rest)
    (hlen : reply.length = 20) :
    (finStep .readConc (postOf .readConc) s).snap = committedFrom s.stg reply := by
  rw [finStep, (seqAdvance_frame _).1]
  simp [postOf, decodeConcAndCommit, committedFrom, le16, getElem_of_reply hb hlen]

end

theorem badSum_eq_decide (reply : List Byte) : badSum reply = decide (Frame.sum8 reply ≠ 0#8) := by
  rw [badSum, bne, beq_eq_decide, decide_not]

/-- `t` is what the exchange of `c`, begun in `s` with `reply` and then `tail` queued, leaves behind. -/
structure EndedExchange (c : WireCmd) (s : State) (reply tail : List Byte) (t : State) : Prop where
  seq : t.seq = seqAfter c
  link : t.link = { rxq := tail, sent := s.link.sent ++ frame c }
  status : t.status = statusAfter c (csumOn s && badSum reply) s.status
  snap : c ≠ .readConc → t.snap = s.snap
  committed : c = .readConc → t.snap = committedFrom s.stg reply
  staged : c = .readPc → t.stg = stagedFrom reply
  cfg : t.cfg = s.cfg
  hw : t.hw = s.hw
  irq : t.out.irq = irq t

section
variable {c : WireCmd} {s t : State} {reply tail : List Byte} {rest : List Inputs}

/-- The FIN step after the last byte has moved. -/
theorem MovedBytes.finish (h : MovedBytes c s reply tail (flen c + rlen c) t)
    (hreply : reply.length = rlen c) (ht : t.sched = readyInputs :: rest) :
    ∃ u, step t = .next u ∧ EndedExchange c s reply tail u ∧ u.sched = rest := by
  have hp : t.seq.phase = .fin := by rw [h.seq, exchangeAt_end]
  have hc : curCmd t.seq = some c := by rw [h.seq, curCmd_exchangeAt]
  have hk : flen c + rlen c - flen c = reply.length := by omega
  have hbuf : t.buf.toList = reply ++ s.buf.toList.drop reply.length := by
    rw [h.buf, hk, List.take_length]
  have hstep : step t = .next (driveIrq (finStep c (postOf c) (latch t))) := by
    rw [step_of_ready ht (by simp [hp]) hc, exchangeStep_fin (s := latch t) hp, andThen_next]
  have hsum : (csumOn (latch t) && decide (replySum (latch t).buf (rlen c) ≠ 0#8)) =
      (csumOn s && badSum reply) := by
    rw [← hreply, replySum_of_toList (b := (latch t).buf) hbuf, badSum_eq_decide]
    simp [csumOn, h.hw, h.cfg]
  obtain ⟨hseq, hstatus⟩ := finStep_of_curCmd (s := latch t) hc
  have hfin : EngineEffect c (latch t) (finStep c (postOf c) (latch t)) := .fin hp
  refine ⟨_, hstep, ?_, ?_⟩
  · exact {
      seq := hseq
      link := by
        rw [driveIrq_link, finStep_link, latch_link_of_ready ht, h.link, hk, List.drop_length,
          List.take_of_length_le (by simp)]
        rfl
      status := by rw [driveIrq_status, hstatus, hsum, latch_status, h.status]
      snap := fun hne => (hfin.snap_valid (.inl hne)).1.trans h.snap
      committed := fun he => by
        subst he
        rw [driveIrq_snap, finStep_readConc_snap (s := latch t) hbuf hreply, latch_stg, h.stg]
      staged := fun he => by
        subst he
        exact finStep_readPc_stg (s := latch t) hbuf hreply
      cfg := hfin.hw_cfg.2.trans h.cfg
      hw := hfin.hw_cfg.1.trans h.hw
      irq := rfl }
  · rw [driveIrq_sched, hfin.kept.1, latch_sched, ht, List.tail_cons]

/-- A whole exchange takes `FLEN + RLEN + 1` ready steps (R282). -/
theorem run_endedExchange (hseq : s.seq = seqAt (progPlace c).1 (progPlace c).2)
    (hreply : reply.length = rlen c) (hrxq : s.link.rxq = reply ++ tail)
    (hsched : s.sched = readySteps (flen c + rlen c + 1) ++ rest) :
    ∃ t, run (flen c + rlen c + 1) s = .next t ∧ EndedExchange c s reply tail t ∧
      t.sched = rest := by
  obtain ⟨t, hrun, hmoved, ht⟩ := run_movedBytes (rest := readyInputs :: rest) hseq hreply hrxq
    le_rfl (by simpa [readySteps, List.replicate_succ'] using hsched)
  obtain ⟨u, hu, hended⟩ := hmoved.finish hreply ht
  exact ⟨u, run_trans hrun (run_one hu), hended⟩

theorem EndedExchange.csumOn (h : EndedExchange c s reply tail t) : csumOn t = csumOn s := by
  simp [Machine.csumOn, h.hw, h.cfg]

end

/-! ### Whole operations under the minimal schedule (R162, R163, R282) -/

/-- An idle engine started on operation `o`, with a ready step to come in place of the host's write. -/
def startedReady (o : Op) (rest : List Inputs) (s : State) : State :=
  startOp o { s with sched := readyInputs :: rest }

section
variable {s : State} {o : Op} {c : WireCmd} {d : Word} {rest : List Inputs}

/-- No step depends on the inputs of the step before it. -/
theorem run_withPins (i : Inputs) (n : Nat) (s : State) :
    run (n + 1) { s with pins := i } = run (n + 1) s := rfl

/-- The host part of a cycle that writes an idle engine's start. -/
theorem hostPart_of_start (hidle : s.seq.phase = .idle)
    (hpins : s.pins = writeInputs (regAddr .cmd) d)
    (hcmd : cmdWrite d s = .next (startOrReject o s)) : hostPart s = .next (startOp o s) := by
  rw [hostPart_write (by rw [hpins]; rfl) (by rw [hpins]; rfl), hpins]
  exact hcmd.trans (congrArg _ (startOrReject_of_idle hidle o))

/-- The cycle of the host's write starts the operation and moves the first byte of its first frame (R167). -/
theorem step_of_start {b : Byte} (hidle : s.seq = Sequencer.idle)
    (hc : curCmd (seqAt o 0#2) = some c) (hb : (frame c)[0]? = some b)
    (hcmd : ∀ u, cmdWrite d u = .next (startOrReject o u))
    (hin : nextInputs s = writeInputs (regAddr .cmd) d) :
    step s = .next (driveIrq (txAccept c b (txOffer b (startOp o (latch s))))) := by
  have hhost : hostPart (latch s) = .next (startOp o (latch s)) :=
    hostPart_of_start (by rw [latch_seq, hidle]; rfl) hin (hcmd _)
  have hengine : enginePart (startOp o (latch s)) =
      .next (txAccept c b (txOffer b (startOp o (latch s)))) := by
    rw [enginePart_busy (by simp) hc, exec_ofCmd, exchangeStep_tx (by simp),
      txStep_of_ready hb (by rw [startOp_pins, latch_pins, hin]; rfl)
        (by rw [startOp_pins, latch_pins, hin]; rfl)]
  rw [step_of_rst_false (by rw [hin]; rfl), hhost, andThen_next, hengine, andThen_next]

/-- The started engine makes the same step, but for the inputs it samples, so the runs agree from there on. -/
theorem run_of_start (hidle : s.seq = Sequencer.idle) (hc : progPlace c = (o, 0#2))
    (hcmd : ∀ u, cmdWrite d u = .next (startOrReject o u))
    (hsched : s.sched = writeInputs (regAddr .cmd) d :: rest) {n : Nat} (hn : 2 ≤ n) :
    run n s = run n (startedReady o rest s) := by
  obtain ⟨n, rfl⟩ := Nat.exists_eq_add_of_le' hn
  obtain ⟨b, hb⟩ := frame_getElem?_of_lt (flen_pos c)
  have hin : nextInputs s = writeInputs (regAddr .cmd) d := nextInputs_of_sched hsched
  have hcur : curCmd (seqAt o 0#2) = some c := by simpa [hc] using curCmd_seqAt c
  have hlatch :
      latch (startedReady o rest s) = { startOp o (latch s) with pins := readyInputs } := by
    simp only [latch, hin, hsched]
    rfl
  rw [run, run, step_of_start hidle hcur hb hcmd hin, step_tx_of_ready rfl rfl hcur hb, hlatch]
  exact (run_withPins readyInputs n _).symm

/-- The first exchange of an operation, with the cycle of the host's write in place of a ready step. -/
theorem run_firstExchange {reply tail : List Byte} (hidle : s.seq = Sequencer.idle)
    (hc : progPlace c = (o, 0#2)) (hcmd : ∀ u, cmdWrite d u = .next (startOrReject o u))
    (hreply : reply.length = rlen c) (hrxq : s.link.rxq = reply ++ tail)
    (hsched : s.sched = writeInputs (regAddr .cmd) d :: readySteps (flen c + rlen c) ++ rest) :
    ∃ t, run (flen c + rlen c + 1) s = .next t ∧ EndedExchange c (startOp o s) reply tail t ∧
      t.sched = rest := by
  have hpos := flen_pos c
  rw [run_of_start hidle hc hcmd hsched (by omega)]
  obtain ⟨t, hrun, h, ht⟩ := run_endedExchange (c := c)
    (s := startedReady o (readySteps (flen c + rlen c) ++ rest) s) (by rw [hc]; rfl) hreply hrxq rfl
  exact ⟨t, hrun, ⟨h.seq, h.link, h.status, h.snap, h.committed, h.staged, h.cfg, h.hw, h.irq⟩, ht⟩

end

theorem csumOn_startOp (o : Op) (s : State) : csumOn (startOp o s) = csumOn s := rfl

/-- Settles O55: a start and four exchanges of INIT, whose replies are opaque. -/
theorem initRunsToCompletion : Obligations.InitRunsToCompletion := by
  intro s x r₁ r₂ r₃ r₄ tail rest hidle h₁ h₂ h₃ h₄ hrxq hsched
  obtain ⟨t₁, hrun₁, he₁, hsched₁⟩ := run_firstExchange (c := .close) (reply := r₁)
    (tail := r₂ ++ (r₃ ++ (r₄ ++ tail)))
    (rest := readySteps 19 ++ (readySteps 13 ++ (readySteps 12 ++ rest))) hidle rfl
    (cmdWrite_of_instr (decode_encode (.init x))) h₁ (hrxq.trans (by simp only [List.append_assoc]))
    hsched
  obtain ⟨t₂, hrun₂, he₂, hsched₂⟩ := run_endedExchange (c := .readSerial) he₁.seq h₂
    (congrArg Transport.rxq he₁.link) hsched₁
  obtain ⟨t₃, hrun₃, he₃, hsched₃⟩ := run_endedExchange (c := .setCont) he₂.seq h₃
    (congrArg Transport.rxq he₂.link) hsched₂
  obtain ⟨t₄, hrun₄, he₄, hsched₄⟩ := run_endedExchange (c := .openCmd) he₃.seq h₄
    (congrArg Transport.rxq he₃.link) hsched₃
  have hrun : run 56 s = .next t₄ := run_trans (run_trans (run_trans hrun₁ hrun₂) hrun₃) hrun₄
  have hcfg : t₄.cfg = s.cfg := he₄.cfg.trans (he₃.cfg.trans (he₂.cfg.trans he₁.cfg))
  have hstatus : t₄.status =
      { s.status with
        done := true, err := false, initDone := true
        csumErr := csumOn s && (badSum r₁ || badSum r₂ || badSum r₃ || badSum r₄)
        errCode := .none, errCmd := 0#3, errPhase := .idle, errCount := 0#5 } := by
    rw [he₄.status, he₃.status, he₂.status, he₁.status, he₃.csumOn, he₂.csumOn, he₁.csumOn,
      csumOn_startOp]
    simp [statusAfter, seqAfter, startOp, Bool.and_or_distrib_left]
  refine ⟨t₄, hrun, he₄.seq, ?_, hcfg, ?_, hstatus, ?_, hsched₄⟩
  · rw [he₄.snap (by decide), he₃.snap (by decide), he₂.snap (by decide), he₁.snap (by decide)]
    rfl
  · rw [he₄.link, he₃.link, he₂.link, he₁.link]
    rfl
  · rw [he₄.irq, irq, hcfg, hstatus]
    simp

/-- Settles O56: a start and the two exchanges of MEASURE; the second commits what the first has staged. -/
theorem measureRunsToCompletion : Obligations.MeasureRunsToCompletion := by
  intro s x pc conc tail rest hidle hpc hconc hrxq hsched
  obtain ⟨t₁, hrun₁, he₁, hsched₁⟩ := run_firstExchange (c := .readPc) (reply := pc)
    (tail := conc ++ tail) (rest := readySteps 26 ++ rest) hidle rfl
    (cmdWrite_of_instr (decode_encode (.measure x))) hpc (hrxq.trans (List.append_assoc ..)) hsched
  obtain ⟨t₂, hrun₂, he₂, hsched₂⟩ := run_endedExchange (c := .readConc) he₁.seq hconc
    (congrArg Transport.rxq he₁.link) hsched₁
  have hrun : run 51 s = .next t₂ := run_trans hrun₁ hrun₂
  have hcfg : t₂.cfg = s.cfg := he₂.cfg.trans he₁.cfg
  have hstatus : t₂.status =
      { s.status with
        done := true, err := false, valid := true
        csumErr := csumOn s && (badSum pc || badSum conc)
        errCode := .none, errCmd := 0#3, errPhase := .idle, errCount := 0#5 } := by
    rw [he₂.status, he₁.status, he₁.csumOn, csumOn_startOp]
    simp [statusAfter, seqAfter, startOp, Bool.and_or_distrib_left]
  refine ⟨t₂, hrun, he₂.seq, ?_, hcfg, ?_, hstatus, ?_, hsched₂⟩
  · rw [he₂.committed rfl, he₁.staged rfl, committedFrom_stagedFrom]
  · rw [he₂.link, he₁.link]
    rfl
  · rw [he₂.irq, irq, hcfg, hstatus]
    simp

/-- Settles O57: each run's snapshot is decoded from its two replies alone. -/
theorem measureIsIdempotent : Obligations.MeasureIsIdempotent := by
  intro s s' x pc conc tail tail' rest rest' hidle hidle' hpc hconc hrxq hrxq' hsched hsched'
  obtain ⟨t, hrun, -, hsnap, -⟩ :=
    measureRunsToCompletion s x pc conc tail rest hidle hpc hconc hrxq hsched
  obtain ⟨t', hrun', -, hsnap', -⟩ :=
    measureRunsToCompletion s' x pc conc tail' rest' hidle' hpc hconc hrxq' hsched'
  exact ⟨t, t', hrun, hrun', hsnap.trans hsnap'.symm⟩

end Sys2Proof.Machine
end

section
/-! 42_decode_and_status.md: field extraction and the status interpreter (R190 to R199), the two FIN steps of MEASURE
(R192, R193), the reply check (R201), and when the snapshot changes (R193). -/

namespace Sys2Proof.Machine

/-- In FIN an exchange is its FIN step. -/
theorem exec_fin {c : WireCmd} {s : State} (hp : s.seq.phase = .fin) :
    exec (Instr.ofCmd c) s = .next (finStep c (postOf c) s) := by
  rw [exec_ofCmd, exchangeStep_fin hp]

/-! ### The reply check (R201) -/

/-- `s` under another `CONFIG` and with another `CSUM_ERR`: what the check reads and the flag it writes. -/
def setCheck (g : ConfigReg) (e : Bool) (s : State) : State :=
  { s with cfg := g, status := { s.status with csumErr := e } }

theorem csumCheck_eq_setCheck (n : Nat) (s : State) :
    csumCheck n s =
      setCheck s.cfg (s.status.csumErr || (csumOn s && decide (replySum s.buf n ≠ 0#8))) s :=
  csumCheck_eq n s

section
variable (g : ConfigReg) (e : Bool) (c : WireCmd) (s : State)

theorem postOf_setCheck : postOf c (setCheck g e s) = setCheck g e (postOf c s) := by
  cases c <;> rfl

theorem seqAdvance_setCheck : seqAdvance (setCheck g e s) = setCheck g e (seqAdvance s) := by
  by_cases h : s.seq.step.toNat + 1 < (prog s.seq.op).length
  · rw [seqAdvance, if_pos (by exact h), seqAdvance, if_pos h]
    rfl
  · rw [seqAdvance, if_neg (by exact h), seqAdvance, if_neg h]
    rfl

/-- FIN is the check's flag on top of `Post` and the sequencer's move, which do not see it. -/
theorem finStep_setCheck :
    finStep c (postOf c) (setCheck g e s) =
      setCheck g
        (e || (csumOn (setCheck g e s) && decide (replySum s.buf (rlen c) ≠ 0#8)))
        (seqAdvance (postOf c s)) := by
  rw [finStep, csumCheck_eq_setCheck, postOf_setCheck, seqAdvance_setCheck, postOf_setCheck,
    seqAdvance_setCheck]
  rfl

end

/-- Settles O41: the two runs of FIN differ in `CONFIG` and `CSUM_ERR` alone. -/
theorem checksumOnlySetsItsFlag : Obligations.ChecksumOnlySetsItsFlag := by
  intro c s hp hw hen
  have hon := finStep_setCheck s.cfg s.status.csumErr c s
  have hoff := finStep_setCheck { s.cfg with csumEn := false } s.status.csumErr c s
  refine ⟨_, _, (exec_fin hp).trans (congrArg _ hon),
    (exec_fin (by exact hp)).trans (congrArg _ hoff), ?_, ?_, rfl⟩
  · by_cases hsum : Frame.sum8 (s.buf.toList.take (rlen c)) = 0#8 <;>
      simp [setCheck, csumOn, replySum, bufTake, hw, hen, hsum]
  · simp [setCheck, csumOn]

/-! ### The two FIN steps of MEASURE (R192, R193) -/

section
variable {s : State}

/-- FIN of `READ_PC` stages the three counts and goes on to `READ_CONC`. -/
theorem finStep_readPc (hc : curCmd s.seq = some .readPc) :
    finStep .readPc (postOf .readPc) s =
      { s with
        stg := { c05 := be32 s.buf 3, c25 := be32 s.buf 7, c10 := be32 s.buf 11 }
        status := { s.status with
          csumErr := s.status.csumErr || (csumOn s && decide (replySum s.buf 20 ≠ 0#8)) }
        seq := seqAt .measure 1#2 } := by
  obtain ⟨hop, hstep⟩ := curCmd_eq_some_iff.mp hc
  rw [finStep_next (by rw [hop, hstep]; decide), csumCheck_eq, hop, hstep]
  rfl

/-- FIN of `READ_CONC` commits the snapshot and completes the operation. -/
theorem finStep_readConc (hc : curCmd s.seq = some .readConc) :
    finStep .readConc (postOf .readConc) s =
      { s with
        snap :=
          { count05 := s.stg.c05, count25 := s.stg.c25, count10 := s.stg.c10
            pm25 := le16 s.buf 5, pm10 := le16 s.buf 9
            alarm := s.buf[15], calib := s.buf[17], workstatus := s.buf[18] }
        status := { s.status with
          valid := true, done := true
          csumErr := s.status.csumErr || (csumOn s && decide (replySum s.buf 20 ≠ 0#8)) }
        seq := Sequencer.idle } := by
  obtain ⟨hop, hstep⟩ := curCmd_eq_some_iff.mp hc
  have hinit : s.seq.op ≠ .init := by rw [hop]; decide
  rw [finStep_last (by rw [hop, hstep]; decide), csumCheck_eq, opComplete,
    if_neg (by exact hinit)]
  rfl

end

/-- Settles O38: at the first exchange of MEASURE. -/
theorem finOfReadPcStagesCounts : Obligations.FinOfReadPcStagesCounts := by
  intro s hp ho hs
  have hc : curCmd s.seq = some .readPc := curCmd_eq_some_iff.mpr ⟨ho, hs⟩
  exact (exec_fin (c := .readPc) hp).trans (congrArg _ (finStep_readPc hc))

/-- Settles O39: at the second exchange of MEASURE. -/
theorem finOfReadConcCommits : Obligations.FinOfReadConcCommits := by
  intro s hp ho hs
  have hc : curCmd s.seq = some .readConc := curCmd_eq_some_iff.mpr ⟨ho, hs⟩
  exact (exec_fin (c := .readConc) hp).trans (congrArg _ (finStep_readConc hc))

/-! ### When the snapshot changes (R193) -/

/-- No host part writes the snapshot or `VALID`. -/
theorem HostEffect.snap_valid {s t : State} (h : HostEffect s t) :
    t.snap = s.snap ∧ t.status.valid = s.status.valid := by
  cases h <;> exact ⟨rfl, rfl⟩

/-- A host part that leaves the engine in FIN has not moved it: starting goes to TX, and aborting to IDLE. -/
theorem HostEffect.seq_of_fin {s t : State} (h : HostEffect s t) (hp : t.seq.phase = .fin) :
    t.seq = s.seq := by
  cases h with
  | nothing | read | config | status | reject => rfl
  | start => cases hp
  | abort => cases hp

/-- In FIN the engine part has one effect. -/
theorem EngineEffect.eq_finStep {c : WireCmd} {s t : State} (h : EngineEffect c s t)
    (hp : s.seq.phase = .fin) : t = finStep c (postOf c) s := by
  cases h with
  | fin => rfl
  | txError b hp' | txAccept b hp' | txStall b hp' | rxTake b rest hp' | rxStall hp' =>
    exact absurd (hp.symm.trans hp') (by decide)

/-- Settles O47: the host part keeps the snapshot, and of the engine part only FIN of `READ_CONC` does not. -/
theorem snapshotChangesOnlyAtCommit : Obligations.SnapshotChangesOnlyAtCommit := by
  intro s t hstep hr
  obtain ⟨hrst, -⟩ | ⟨-, u, v, hu, -, hv, rfl⟩ := step_effect hstep
  · simp [hr] at hrst
  have hhost : u.snap = s.snap ∧ u.status.valid = s.status.valid := hu.snap_valid
  rcases enginePart_effect hv with ⟨-, rfl⟩ | ⟨c, -, hc, he⟩
  · exact .inl hhost
  by_cases hcommit : c = .readConc ∧ u.seq.phase = .fin
  · obtain ⟨rfl, hp⟩ := hcommit
    have hseq : u.seq = s.seq := hu.seq_of_fin hp
    obtain ⟨hbuf, hstg, -⟩ := hu.unread
    rw [he.eq_finStep hp, finStep_readConc hc, hbuf, hstg]
    exact .inr ⟨hseq ▸ hp, hseq ▸ hc, rfl, rfl, rfl, rfl⟩
  · obtain ⟨hsnap, hvalid⟩ := he.snap_valid (not_and_or.mp hcommit)
    exact .inl ⟨hsnap.trans hhost.1, hvalid.trans hhost.2⟩

/-! ### Field extraction as numbers (R190, R191) -/

theorem be32_toNat (b : Buffer) (o : Fin 17) :
    (be32 b o).toNat =
      b[o.val].toNat * 2 ^ 24 + b[o.val + 1].toNat * 2 ^ 16 + b[o.val + 2].toNat * 2 ^ 8 +
        b[o.val + 3].toNat := by
  simp only [be32, toNat_append_eq]
  ring

theorem le16_toNat (b : Buffer) (o : Fin 19) :
    (le16 b o).toNat = b[o.val].toNat + b[o.val + 1].toNat * 2 ^ 8 := by
  rw [le16, toNat_append_eq, Nat.add_comm]

/-- Settles O44: each joined byte counts in units of the range of the bytes below it. -/
theorem fieldExtraction : Obligations.FieldExtraction :=
  ⟨be32_toNat, le16_toNat⟩

/-! ### `INTERP`, field by field (R196 to R199) -/

theorem hostRead_interp (s : State) : hostRead (regAddr .interp) s = interpWord s.snap := rfl

section
variable (p : Snapshot)

theorem interpWord_wsClass :
    (interpWord p).extractLsb' 0 2 = wsClassBits (wsClass p.workstatus) :=
  BitVec.extractLsb'_append_eq_right

/-- The five flags of `INTERP`, at bits 2 to 6. -/
theorem interpWord_flags :
    (interpWord p).getLsbD 2 = sentinel p.pm25 ∧ (interpWord p).getLsbD 3 = sentinel p.pm10 ∧
    (interpWord p).getLsbD 4 = overRange p.pm25 ∧ (interpWord p).getLsbD 5 = overRange p.pm10 ∧
    (interpWord p).getLsbD 6 = (sentinel p.pm25 || sentinel p.pm10) := by
  refine ⟨?_, ?_, ?_, ?_, ?_⟩ <;>
    · rw [interpWord]
      repeat rw [BitVec.getLsbD_append]
      simp

end

theorem sentinel_iff (v : Half) : sentinel v = true ↔ v.toNat = 1000 := by
  rw [sentinel_eq_decide, decide_eq_true_iff]

theorem overRange_iff (v : Half) : overRange v = true ↔ 1000 < v.toNat := by
  rw [overRange, decide_eq_true_iff]

/-- The class that `INTERP` shows is the code whose number the whole status byte gives. -/
theorem interpWord_wsClass_eq {p : Snapshot} {k : BitVec 2}
    (h : (if p.workstatus.toNat = 3 then 1 else if p.workstatus.toNat = 1 then 2
      else if p.workstatus.toNat = 128 then 3 else 0) = k.toNat) :
    (interpWord p).extractLsb' 0 2 = k := by
  rw [interpWord_wsClass]
  exact BitVec.eq_of_toNat_eq ((wsClassBits_wsClass_toNat p.workstatus).trans h)

/-- Settles O45: the class by the cases of the status byte, each flag by its bit and its condition. -/
theorem interpFields : Obligations.InterpFields := by
  intro s
  obtain ⟨hsent25, hsent10, hover25, hover10, hlikely⟩ := interpWord_flags s.snap
  refine ⟨fun h => interpWord_wsClass_eq (by simp [h]), fun h => interpWord_wsClass_eq (by simp [h]),
    fun h => interpWord_wsClass_eq (by simp [h]),
    fun h3 h1 h128 => interpWord_wsClass_eq (by simp [h3, h1, h128]), ?_⟩
  simp only [hostRead_interp, hsent25, hsent10, hover25, hover10, hlikely, Bool.or_eq_true,
    sentinel_iff, overRange_iff, interpWord_reserved, and_self]

/-! ### Alarms and calibration flags (R194, R195) -/

theorem alarmBit_lt (k : Alarm) : alarmBit k < 8 := by cases k <;> decide

theorem calibBit_lt (k : CalibFlag) : calibBit k < 3 := by cases k <;> decide

/-- Zero extension to a host word keeps the bits of a register (R71). -/
theorem getLsbD_setWidth_word {v : Byte} {k : Nat} (h : k < 8) :
    (v.setWidth 32).getLsbD k = v.getLsbD k := by
  rw [BitVec.getLsbD_setWidth, decide_eq_true (by omega), Bool.true_and]

theorem alarmSet_eq_hostRead (s : State) (k : Alarm) :
    alarmSet s.snap.alarm k = (hostRead (regAddr .alarm) s).getLsbD (alarmBit k) :=
  (getLsbD_setWidth_word (alarmBit_lt k)).symm

theorem calibSet_eq_hostRead (s : State) (k : CalibFlag) :
    calibSet s.snap.calib k = (hostRead (regAddr .calib) s).getLsbD (calibBit k) :=
  (getLsbD_setWidth_word ((calibBit_lt k).trans (by decide))).symm

/-- Bits 7:3 of `CALIB` decide no flag. -/
theorem calibSet_mask (v : Byte) (k : CalibFlag) : calibSet (v &&& 0x07#8) k = calibSet v k := by
  cases k <;> simp [calibSet, calibBit]

/-- Settles O46: in the order of the flags their bits are 0, 1, 2 and so on. -/
theorem alarmAndCalibrationBits : Obligations.AlarmAndCalibrationBits := by
  refine ⟨fun s => ?_, fun s => ?_, fun v w k h => ?_⟩
  · exact List.map_congr_left fun k _ => alarmSet_eq_hostRead s k
  · exact List.map_congr_left fun k _ => calibSet_eq_hostRead s k
  · rw [← calibSet_mask v, h, calibSet_mask]

end Sys2Proof.Machine
end

section
/-! 60_exceptions.md: error entry (R234, R236), the three errors (R231 to R233), what wins within one step
(R239), and the interrupt and its acknowledgement (R237, R238). -/

namespace Sys2Proof.Machine

/-! ### The interrupt (R237) -/

/-- `irq` is driven from the state at the end of the step, which a reset step leaves quiet. -/
theorem step_irq {s t : State} (h : step s = .next t) : t.out.irq = irq t := by
  rcases step_effect h with ⟨-, rfl⟩ | ⟨-, u, v, -, -, -, rfl⟩ <;> rfl

/-- Settles O12: `irq` is a function of `CONFIG` and `STATUS`. -/
theorem irqFollowsDoneOrErr : Obligations.IrqFollowsDoneOrErr := fun _ _ h => step_irq h

/-! ### Error entry (R234, R236) -/

/-- Settles O43: the idle sequencer, field by field. -/
theorem errorEntryRecordsAndIdles : Obligations.ErrorEntryRecordsAndIdles :=
  fun _ _ _ _ _ => rfl

theorem exec_init_of_idle {s : State} (h : s.seq.phase = .idle) (x : BitVec 24) :
    exec (.init x) s = .next (startOp .init s) := congrArg _ (startOrReject_of_idle h .init)

theorem exec_measure_of_idle {s : State} (h : s.seq.phase = .idle) (x : BitVec 24) :
    exec (.measure x) s = .next (startOp .measure s) := congrArg _ (startOrReject_of_idle h .measure)

/-- Settles O58: error entry leaves an idle engine, and a start clears the record. -/
theorem errorThenNextOperation : Obligations.ErrorThenNextOperation := by
  intro code c ph n s x o ho
  refine ⟨startOp o (raiseError code c ph n s), ?_, rfl, rfl, rfl, rfl, rfl, rfl⟩
  cases o with
  | none => exact absurd rfl ho
  | init => exact exec_init_of_idle rfl x
  | measure => exact exec_measure_of_idle rfl x

/-! ### Abort (R233) -/

theorem exec_abort_of_busy {s : State} {c : WireCmd} (h : s.seq.phase ≠ .idle)
    (hc : curCmd s.seq = some c) (x : BitVec 24) :
    exec (.abort x) s = .next (raiseError .aborted c s.seq.phase (abortCount s.seq) s) := by
  simp [exec, execAbort, busy, h, hc]

theorem exec_abort_of_idle {s : State} (h : s.seq.phase = .idle) (x : BitVec 24) :
    exec (.abort x) s = .next s := by
  simp [exec, execAbort, busy, h]

/-- Settles O28: error entry with the current command, or nothing. -/
theorem abortEndsOperation : Obligations.AbortEndsOperation :=
  ⟨fun x _ _ h hc => exec_abort_of_busy h hc x, fun x _ h => exec_abort_of_idle h x⟩

/-! ### A host write and the engine part of its step (R239) -/

section
variable {s u v : State} {a : BitVec 6}

/-- A step whose host write and engine part both answer. -/
theorem step_of_write (hr : (nextInputs s).rst = false) (hsel : (nextInputs s).hsel = true)
    (hwrite : (nextInputs s).hwrite = true) (haddr : (nextInputs s).haddr = a)
    (hu : hostWrite a (nextInputs s).hwdata (latch s) = .next u) (hv : enginePart u = .next v) :
    step s = .next (driveIrq v) := by
  rw [step_of_rst_false hr, hostPart_write (s := latch s) hsel hwrite, latch_pins, haddr, hu,
    andThen_next, hv, andThen_next]

end

/-- Settles O29: error entry in the host part leaves the engine part nothing to do. -/
theorem abortWinsOverEngine : Obligations.AbortWinsOverEngine := by
  intro s x hinv hp hr hsel hwrite haddr hdata
  obtain ⟨c, hc⟩ := curCmd_of_busy hinv.seq hp
  obtain ⟨hdone, -⟩ := hinv.busyClear (busy_iff.mpr hp)
  have habort : hostWrite (regAddr .cmd) (nextInputs s).hwdata (latch s) =
      .next (raiseError .aborted c s.seq.phase (abortCount s.seq) (latch s)) := by
    rw [hostWrite_cmd, hdata, cmdWrite_of_instr (decode_encode (.abort x))]
    exact exec_abort_of_busy (s := latch s) hp hc x
  exact ⟨_, step_of_write hr hsel hwrite haddr habort (enginePart_idle rfl),
    rfl, rfl, rfl, hdone, rfl, rfl, rfl, rfl, rfl, rfl, rfl⟩

/-! ### The TX step (R122, R232) -/

/-- In TX with a failed write, the step ends in an error, whatever `tx_ready` is. -/
theorem txStep_of_txErr {c : WireCmd} {b : Byte} {s : State}
    (hb : (frame c)[s.seq.txIdx.toNat]? = some b) (he : s.pins.txErr = true) :
    txStep c s =
      .next (raiseError .transportError c .tx (s.seq.txIdx.setWidth 5) (txOffer b s)) := by
  simp [txStep, hb, he]

/-- Settles O32: the six exchanges share the TX step, which fails or accepts. -/
theorem txStepMovesOneByte : Obligations.TxStepMovesOneByte := by
  intro c s b hp hb
  rw [exec_ofCmd, exchangeStep_tx hp]
  exact ⟨fun he => txStep_of_txErr hb he, fun he hr => txStep_of_ready hb he hr⟩

/-! ### Steps in which nothing moves (R124, R231) -/

/-- In TX inside the frame, or in RX inside the reply with nothing queued: where the exchange of `c`
stalls unless the transport accepts the byte or the write fails. -/
def Waiting (c : WireCmd) (s : State) : Prop :=
  curCmd s.seq = some c ∧
    ((s.seq.phase = .tx ∧ s.seq.txIdx.toNat < flen c) ∨
      (s.seq.phase = .rx ∧ s.seq.rxCnt.toNat < rlen c ∧ s.link.rxq = []))

section
variable {c : WireCmd} {s t : State} {rest : List Inputs}

theorem EngineInv.waiting (h : EngineInv s) (hc : curCmd s.seq = some c)
    (hp : s.seq.phase = .tx ∨ (s.seq.phase = .rx ∧ s.link.rxq = [])) : Waiting c s := by
  obtain ⟨htx, hrx, -⟩ := seqOk_counters h.seq hc
  exact ⟨hc, hp.imp (fun hp => ⟨hp, (htx hp).1⟩) fun ⟨hp, hq⟩ => ⟨hp, (hrx hp).2, hq⟩⟩

/-- Waiting is a matter of the sequencer's place and of the queue. -/
theorem Waiting.of_stallCnt {k : Half} (h : Waiting c s) (hseq : t.seq = { s.seq with stallCnt := k })
    (hrxq : t.link.rxq = s.link.rxq) : Waiting c t := by
  rw [Waiting, hseq, hrxq]
  exact h

/-- The engine part of a waiting exchange that nothing moves is its stall, in TX after the offer. -/
theorem Waiting.enginePart_eq (h : Waiting c s)
    (hpins : s.seq.phase = .tx → s.pins.txErr = false ∧ s.pins.txReady = false) :
    ∃ o, enginePart s =
      .next (stall c s.seq.phase (abortCount s.seq) { s with out := o }) := by
  obtain ⟨hc, ⟨hp, hk⟩ | ⟨hp, hk, hq⟩⟩ := h <;>
    rw [enginePart_busy (by simp [hp]) hc, exec_ofCmd, hp]
  · obtain ⟨b, hb⟩ := frame_getElem?_of_lt hk
    obtain ⟨he, hr⟩ := hpins hp
    refine ⟨{ s.out with txValid := true, txData := b }, ?_⟩
    rw [exchangeStep_tx hp, txStep_of_not_ready hb he hr, abortCount, if_pos hp]
    rfl
  · refine ⟨s.out, ?_⟩
    rw [exchangeStep_rx hp, rxStep_of_empty hk hq, abortCount, if_neg (by simp [hp])]

/-- A stalled step of a waiting exchange. -/
theorem Waiting.step_eq (h : Waiting c s) (hs : s.sched = Inputs.quiet :: rest) :
    ∃ o, step s =
      .next (driveIrq (stall c s.seq.phase (abortCount s.seq) { latch s with out := o })) := by
  have hin : nextInputs s = Inputs.quiet := nextInputs_of_sched hs
  have hlatch : Waiting c (latch s) :=
    h.of_stallCnt (k := s.seq.stallCnt) rfl (by simp [hin, Inputs.quiet])
  obtain ⟨o, ho⟩ := hlatch.enginePart_eq fun _ => by rw [latch_pins, hin]; exact ⟨rfl, rfl⟩
  exact ⟨o, by rw [step_no_access (by rw [hin]; rfl) (by rw [hin]; rfl), ho]; rfl⟩

theorem stalledSteps_add_append (m n : Nat) (rest : List Inputs) :
    stalledSteps (m + n) ++ rest = stalledSteps m ++ (stalledSteps n ++ rest) := by
  rw [stalledSteps, ← List.replicate_append_replicate, List.append_assoc]
  rfl

/-- `t` is `s` after `k` counted stalls. -/
structure CountedStalls (s : State) (k : Nat) (t : State) : Prop where
  seq : t.seq = { s.seq with stallCnt := BitVec.ofNat 16 k }
  status : t.status = s.status
  snap : t.snap = s.snap
  cfg : t.cfg = s.cfg
  rxq : t.link.rxq = s.link.rxq

/-- The count does not wrap below a 16-bit timeout. -/
theorem CountedStalls.stallCnt_toNat {k : Nat} (h : CountedStalls s k t)
    (hk : k < s.cfg.timeout.toNat) : t.seq.stallCnt.toNat = k := by
  have := s.cfg.timeout.isLt
  rw [h.seq, BitVec.toNat_ofNat]
  omega

/-- Before `TIMEOUT` a stalled step counts. -/
theorem CountedStalls.step_counts {k : Nat} (h : CountedStalls s k t) (hw : Waiting c s)
    (hk : k + 1 < s.cfg.timeout.toNat) (ht : t.sched = Inputs.quiet :: rest) :
    ∃ u, step t = .next u ∧ CountedStalls s (k + 1) u ∧ u.sched = rest := by
  have hin : nextInputs t = Inputs.quiet := nextInputs_of_sched ht
  have hcnt : t.seq.stallCnt.toNat = k := h.stallCnt_toNat (by omega)
  obtain ⟨o, ho⟩ := (hw.of_stallCnt h.seq h.rxq).step_eq ht
  rw [stall_of_lt_timeout (s := { latch t with out := o }) (by simp [hcnt, h.cfg, hk])] at ho
  refine ⟨_, ho, ?_, by simp [ht]⟩
  exact {
    seq := by simp [h.seq, BitVec.ofNat_add]
    status := h.status, snap := h.snap, cfg := h.cfg
    rxq := by simp [hin, Inputs.quiet, h.rxq] }

/-- Fewer than `TIMEOUT` stalled steps are counted stalls. -/
theorem Waiting.run_countedStalls (hw : Waiting c s) (h0 : s.seq.stallCnt = 0#16) {k : Nat}
    (hk : k < s.cfg.timeout.toNat) (hs : s.sched = stalledSteps k ++ rest) :
    ∃ t, run k s = .next t ∧ CountedStalls s k t ∧ t.sched = rest := by
  induction k generalizing rest with
  | zero => exact ⟨s, rfl, ⟨by rw [← h0], rfl, rfl, rfl, rfl⟩, hs⟩
  | succ k ih =>
    obtain ⟨t, hrun, ht, hsched⟩ := ih (rest := Inputs.quiet :: rest) (by omega)
      (hs.trans (stalledSteps_add_append k 1 rest))
    obtain ⟨u, hu, hcounted⟩ := ht.step_counts hw hk hsched
    exact ⟨u, run_trans hrun (run_one hu), hcounted⟩

/-- The stalled step that reaches `TIMEOUT` ends in an error with the place and the bytes moved. -/
theorem CountedStalls.step_timeout {k : Nat} (h : CountedStalls s k t) (hw : Waiting c s)
    (hk : s.cfg.timeout.toNat = k + 1) (ht : t.sched = Inputs.quiet :: rest) :
    ∃ o, step t = .next (driveIrq (raiseError .transportTimeout c s.seq.phase
      (abortCount s.seq) { latch t with out := o })) := by
  have hcnt : t.seq.stallCnt.toNat = k := h.stallCnt_toNat (by omega)
  obtain ⟨o, ho⟩ := (hw.of_stallCnt h.seq h.rxq).step_eq ht
  rw [stall_of_timeout_le (s := { latch t with out := o }) (by simp [h.cfg, hk])
    (by simp [h.cfg, hk, hcnt])] at ho
  exact ⟨o, by rw [ho, h.seq]; rfl⟩

end

/-- Settles O35: by induction on the stalls before the last, which is the one that reaches `TIMEOUT`. -/
theorem timeoutAfterExactlyTStalls : Obligations.TimeoutAfterExactlyTStalls := by
  intro c s rest hinv hc hp h0 hT hs
  have hw : Waiting c s := hinv.waiting hc hp
  refine ⟨fun k hk => ?_, ?_⟩
  · have hsplit : s.sched = stalledSteps k ++ (stalledSteps (s.cfg.timeout.toNat - k) ++ rest) := by
      rw [hs, ← stalledSteps_add_append, Nat.add_sub_cancel' hk.le]
    obtain ⟨t, hrun, ht, -⟩ := hw.run_countedStalls h0 hk hsplit
    exact ⟨t, hrun, ht.status, ht.seq⟩
  · obtain ⟨k, hk⟩ : ∃ k, s.cfg.timeout.toNat = k + 1 :=
      Nat.exists_eq_succ_of_ne_zero fun h => hT (BitVec.eq_of_toNat_eq h)
    rw [hk] at hs ⊢
    obtain ⟨t, hrun, ht, hsched⟩ := hw.run_countedStalls (k := k) (rest := Inputs.quiet :: rest) h0
      (by omega) (hs.trans (stalledSteps_add_append k 1 rest))
    obtain ⟨o, ho⟩ := ht.step_timeout hw hk hsched
    exact ⟨_, run_trans hrun (run_one ho), rfl, rfl, rfl, rfl, rfl, rfl, ht.snap,
      by simp [ht.status], by simp [hsched]⟩

/-! ### What the engine part sets (R239) -/

section
variable {c : WireCmd} {s v : State}

/-- In FIN the engine part leaves the exchange's `STATUS`, whose flags it only sets. -/
theorem enginePart_fin_status (hv : enginePart s = .next v) (hc : curCmd s.seq = some c)
    (hp : s.seq.phase = .fin) :
    v.status = statusAfter c (csumOn s && decide (replySum s.buf (rlen c) ≠ 0#8)) s.status := by
  rw [enginePart_busy (by simp [hp]) hc, exec_fin hp] at hv
  cases hv
  exact (finStep_of_curCmd hc).2

/-- In TX a failed write leaves `ERR` with its code. -/
theorem enginePart_txErr_status (hw : Waiting c s) (hp : s.seq.phase = .tx)
    (he : s.pins.txErr = true) (hv : enginePart s = .next v) :
    v.status.err = true ∧ v.status.errCode = .transportError := by
  obtain ⟨hc, ⟨-, hk⟩ | ⟨hp', -⟩⟩ := hw
  · obtain ⟨b, hb⟩ := frame_getElem?_of_lt hk
    rw [enginePart_busy (by simp [hp]) hc, exec_ofCmd, exchangeStep_tx hp,
      txStep_of_txErr hb he] at hv
    cases hv
    exact ⟨rfl, rfl⟩
  · simp [hp] at hp'

/-- A stall that reaches `TIMEOUT` leaves `ERR` with its code. -/
theorem enginePart_timeout_status (hw : Waiting c s)
    (hpins : s.seq.phase = .tx → s.pins.txErr = false ∧ s.pins.txReady = false)
    (h0 : s.cfg.timeout ≠ 0#16) (hT : s.cfg.timeout.toNat ≤ s.seq.stallCnt.toNat + 1)
    (hv : enginePart s = .next v) :
    v.status.err = true ∧ v.status.errCode = .transportTimeout := by
  obtain ⟨o, ho⟩ := hw.enginePart_eq hpins
  have h0' : s.cfg.timeout.toNat ≠ 0 := fun h => h0 (BitVec.eq_of_toNat_eq h)
  rw [ho, stall_of_timeout_le (s := { s with out := o }) h0' hT] at hv
  cases hv
  exact ⟨rfl, rfl⟩

end

/-- Settles O30: the clear is in the host part, and the engine part sets its flags whatever that left. -/
theorem engineSetBeatsClear : Obligations.EngineSetBeatsClear := by
  intro s c hinv hc hr hsel hwrite haddr
  have hinv' : EngineInv (statusWrite (nextInputs s).hwdata (latch s)) :=
    (HostEffect.status _).inv (hinv.congr rfl rfl rfl rfl rfl)
  obtain ⟨v, hv⟩ := enginePart_next hinv'.seq
  refine ⟨driveIrq v, step_of_write hr hsel hwrite haddr (hostWrite_status _ _) hv,
    fun hp hlast => ?_, fun hp hhas hen hsum => ?_, fun hp he => ?_, fun h0 hT hstall => ?_⟩
  · rw [driveIrq_status, enginePart_fin_status hv hc hp]
    rcases hlast with rfl | rfl <;> simp [statusAfter, seqAfter]
  · rw [driveIrq_status, enginePart_fin_status hv hc hp]
    simp [statusAfter, csumOn, hhas, hen, hsum]
  · exact enginePart_txErr_status (v := v) (hinv'.waiting hc (.inl hp)) hp he hv
  · have hplace : s.seq.phase = .tx ∨ s.seq.phase = .rx ∧ (latch s).link.rxq = [] :=
      hstall.imp (fun ⟨hp, _⟩ => hp) fun ⟨hp, hq, harr⟩ => ⟨hp, by simp [hq, harr]⟩
    have hpins (hp : s.seq.phase = .tx) :
        (nextInputs s).txErr = false ∧ (nextInputs s).txReady = false :=
      hstall.elim (fun ⟨_, h⟩ => h) fun ⟨hp', _⟩ => absurd (hp.symm.trans hp') (by decide)
    exact enginePart_timeout_status (v := v) (hinv'.waiting hc hplace) hpins h0 hT hv

/-! ### Acknowledging the interrupt (R238) -/

section
variable {c : WireCmd} {o : Op} {s u v : State}

/-- A stall that does not reach `TIMEOUT` leaves `STATUS`. -/
theorem stall_status_of_not_timeout {ph : Phase} {n : BitVec 5}
    (h : s.cfg.timeout.toNat ≤ s.seq.stallCnt.toNat + 1 → s.cfg.timeout.toNat = 0) :
    (stall c ph n s).status = s.status := by
  rcases stall_cases c ph n s with ⟨-, e⟩ | ⟨h0, hle, -⟩ | ⟨-, e⟩
  · rw [e]
  · exact absurd (h hle) h0
  · rw [e]

/-- The first TX step of a started operation keeps `STATUS`, unless the write fails or stalls against a
`TIMEOUT` of 1. -/
theorem enginePart_startOp_status (hc : curCmd (seqAt o 0#2) = some c) (he : s.pins.txErr = false)
    (hr : s.pins.txReady = true ∨ s.cfg.timeout ≠ 1#16) :
    ∃ v, enginePart (startOp o s) = .next v ∧ v.status = (startOp o s).status := by
  cases hready : s.pins.txReady with
  | true =>
    obtain ⟨b, hb⟩ := frame_getElem?_of_lt (flen_pos c)
    refine ⟨txAccept c b (txOffer b (startOp o s)), ?_, rfl⟩
    rw [enginePart_busy (by simp) hc, exec_ofCmd, exchangeStep_tx rfl,
      txStep_of_ready (s := startOp o s) hb he hready]
  | false =>
    have hT : s.cfg.timeout.toNat ≠ 1 := fun h =>
      hr.resolve_left (by simp [hready]) (BitVec.eq_of_toNat_eq h)
    have hw : Waiting c (startOp o s) := ⟨hc, .inl ⟨rfl, flen_pos c⟩⟩
    obtain ⟨out, hout⟩ := hw.enginePart_eq fun _ => ⟨he, hready⟩
    refine ⟨_, hout, stall_status_of_not_timeout (s := { startOp o s with out := out }) ?_⟩
    simp only [startOp_cfg, startOp_seq, seqAt_stallCnt, BitVec.toNat_ofNat]
    omega

/-- A started operation has neither ended nor failed. -/
theorem irq_of_startOp_status (h : v.status = (startOp o s).status) : irq v = false := by
  simp [irq, h, startOp]

/-- With `IRQ_EN` = 0 after the host part there is no interrupt: `CONFIG` is the host's alone. -/
theorem irq_of_irqEn (hen : u.cfg.irqEn = false) (hv : enginePart u = .next v) : irq v = false := by
  have hcfg : v.cfg = u.cfg := by
    rcases enginePart_effect hv with ⟨-, rfl⟩ | ⟨c, -, -, he⟩
    · rfl
    · exact he.hw_cfg.2
  rw [irq, hcfg, hen, Bool.false_and]

end

/-- Settles O13: after the host part both flags are 0 and the engine part sets neither, or `IRQ_EN` is 0. -/
theorem irqAcknowledge : Obligations.IrqAcknowledge := by
  refine ⟨fun s hp hr hsel hwrite haddr hd he => ?_,
    fun s x hp hr hsel hwrite haddr hdata herr hT => ?_,
    fun s hinv hr hsel hwrite haddr hen => ?_⟩
  · refine ⟨_, step_of_write hr hsel hwrite haddr (hostWrite_status _ _) (enginePart_idle hp), ?_⟩
    simp [irq, statusWrite, hd, he, -BitVec.getLsbD_eq_getElem]
  · obtain ⟨o, c, hc, hu⟩ : ∃ o c, curCmd (seqAt o 0#2) = some c ∧
        hostWrite (regAddr .cmd) (nextInputs s).hwdata (latch s) = .next (startOp o (latch s)) := by
      rw [hostWrite_cmd]
      rcases hdata with hdata | hdata <;> rw [hdata]
      · refine ⟨.init, .close, rfl, ?_⟩
        rw [cmdWrite_of_instr (decode_encode (.init x)), exec_init_of_idle (s := latch s) hp]
      · refine ⟨.measure, .readPc, rfl, ?_⟩
        rw [cmdWrite_of_instr (decode_encode (.measure x)), exec_measure_of_idle (s := latch s) hp]
    obtain ⟨v, hv, hstatus⟩ := enginePart_startOp_status (s := latch s) hc herr hT
    exact ⟨_, step_of_write hr hsel hwrite haddr hu hv, irq_of_startOp_status hstatus⟩
  · obtain ⟨v, hv⟩ := enginePart_next (s := configWrite (nextInputs s).hwdata (latch s)) hinv.seq
    exact ⟨_, step_of_write hr hsel hwrite haddr (hostWrite_config _ _) hv, irq_of_irqEn hen hv⟩

end Sys2Proof.Machine
end

section
/-! 70_reset_and_hazards.md: the reset step (R270, R272) and the unbounded wait (R280). -/

namespace Sys2Proof.Machine

/-! ### The reset step (R270, R272) -/

theorem step_of_rst {s : State} (hr : (nextInputs s).rst = true) :
    step s = .next (resetCycle (latch s)) := by
  rw [step_eq, if_pos hr]

theorem resetCycle_hrdata_of_read {s : State} (hsel : s.pins.hsel = true)
    (hwrite : s.pins.hwrite = false) : (resetCycle s).out.hrdata = some 0#32 := by
  simp [resetCycle, hsel, hwrite]

/-- Settles O6: the reset step is `resetCycle` of the sampled state, which keeps the variant and the streams. -/
theorem resetStep : Obligations.ResetStep := fun s hr =>
  ⟨resetCycle (latch s), step_of_rst hr, rfl, rfl, rfl, rfl, rfl, rfl, rfl, rfl,
    fun hsel hwrite => resetCycle_hrdata_of_read (s := latch s) hsel hwrite, rfl, rfl⟩

/-! ### The unbounded wait (R280) -/

section
variable {c : WireCmd} {s : State} {rest : List Inputs}

/-- Sampling the inputs of a cycle in which nobody acts moves nothing. -/
theorem latch_of_quiet (hs : s.sched = Inputs.quiet :: rest) :
    latch s = { s with pins := Inputs.quiet, sched := rest, out := Outputs.quiet } := by
  simp [latch, nextInputs, hs, Inputs.quiet]

/-- With `TIMEOUT` = 0 a stalled step of a waiting exchange is not counted: the ports alone change. -/
theorem Waiting.step_of_timeout_zero (hw : Waiting c s) (h0 : s.cfg.timeout = 0#16)
    (hs : s.sched = Inputs.quiet :: rest) :
    ∃ o, step s = .next { s with pins := Inputs.quiet, sched := rest, out := o } := by
  obtain ⟨o, ho⟩ := hw.step_eq hs
  rw [stall_of_timeout_zero (by simp [h0]), latch_of_quiet hs] at ho
  exact ⟨_, ho⟩

/-- With `TIMEOUT` = 0 any number of stalled steps leaves the exchange waiting at the same place. -/
theorem Waiting.run_of_timeout_zero {k : Nat} (hw : Waiting c s) (h0 : s.cfg.timeout = 0#16)
    (hs : s.sched = stalledSteps k ++ rest) :
    ∃ p o, run k s = .next { s with pins := p, sched := rest, out := o } := by
  induction k generalizing s with
  | zero =>
    have hrest : s.sched = rest := hs
    exact ⟨s.pins, s.out, by rw [← hrest]; rfl⟩
  | succ k ih =>
    obtain ⟨o, ho⟩ := hw.step_of_timeout_zero h0 hs
    rw [run, ho, andThen_next]
    exact ih (s := { s with pins := Inputs.quiet, sched := stalledSteps k ++ rest, out := o })
      hw h0 rfl

end

/-- Settles O36: an uncounted stall keeps the exchange waiting, by induction on the stalled steps. -/
theorem unboundedWait : Obligations.UnboundedWait := by
  intro c s k rest hinv hc hp h0 hs
  obtain ⟨p, o, hrun⟩ := (hinv.waiting hc hp).run_of_timeout_zero h0 hs
  exact ⟨_, hrun, rfl, rfl, rfl, rfl, rfl, rfl, rfl⟩

end Sys2Proof.Machine
end
